-- ==== Sys2Proof/Word.lean ====
section
/-! DEFINITION. The word types of FSDP's two ports and its bit buffer, and the three-lane record of a colour. -/

namespace Sys2Proof

/-- One byte of the bit buffer BUF (20_memory.md R56). -/
abbrev Byte := BitVec 8

/-- A command word, written whole to the command port (30_encoding.md R70). -/
abbrev CmdWord := BitVec 64

/-- A read request (30_encoding.md R85). -/
abbrev ReadWord := BitVec 16

/-- A response of the read port, or a register value (30_encoding.md R85, 10_state.md R33). -/
abbrev RegValue := BitVec 32

/-- The three lanes R, G, B of a pixel, an error vector or a line-buffer entry (41_dither.md R135):
channel 0 is `r`, 1 is `g`, 2 is `b`. -/
structure Rgb (α : Type) where
  r : α
  g : α
  b : α
deriving DecidableEq, Repr

namespace Rgb

/-- The same rule in each lane (41_dither.md R135). -/
def map {α β : Type} (f : α → β) (p : Rgb α) : Rgb β := ⟨f p.r, f p.g, f p.b⟩

/-- The same two-operand rule in each lane (41_dither.md R135). -/
def zip {α β γ : Type} (f : α → β → γ) (p : Rgb α) (q : Rgb β) : Rgb γ :=
  ⟨f p.r q.r, f p.g q.g, f p.b q.b⟩

/-- The same value in each lane. -/
def all {α : Type} (v : α) : Rgb α := ⟨v, v, v⟩

end Rgb

end Sys2Proof
end

