-- ==== Sys2Proof/Config.lean ====
section
/-! DEFINITION. What an implementation of FSDP fixes (the parameters of 00_scope.md R6) and the value the spec
leaves free (the contents of BUF after reset). -/

namespace Sys2Proof.Config

/-- The implementation parameters of 00_scope.md R6 that a model takes as arguments. -/
structure Params where
  /-- W_MAX, the largest frame width in pixels; legal 1..511. -/
  wMax : Nat
  /-- H_MAX, the largest frame height in pixels; legal 1..511. -/
  hMax : Nat
deriving DecidableEq, Repr

/-- The legal range of both parameters (00_scope.md R6). -/
abbrev Params.legal (p : Params) : Prop :=
  1 ≤ p.wMax ∧ p.wMax ≤ 511 ∧ 1 ≤ p.hMax ∧ p.hMax ≤ 511

/-- The default parameters, which hold both profiles exactly (00_scope.md R6). -/
def Params.default : Params := { wMax := 246, hMax := 128 }

/-- FREE VALUE. Byte `a` of BUF after the `n`-th reset, before the first START that follows it: "a model must treat
each byte as a free draw, not as 0x00" (70_reset_and_hazards.md R211, 93_implementation_defined.md U2). It has no
body: nothing can be proved of it. The first argument numbers the resets, so that two resets draw independently. -/
opaque freeByte : Nat → Nat → Byte

end Sys2Proof.Config
end

