-- ==== Sys2Proof/Syntax.lean ====
section
/-! DEFINITION. The commands and read requests of FSDP (one constructor for each row of the opcode table), the
error codes, and the operations a host performs. -/

namespace Sys2Proof

/-- The packer's traversal, field TRAV (10_state.md R25, 42_pack.md R150). -/
inductive Traversal where
  /-- TRAV = 0: bit index `x*H + y`. -/
  | columnMajor
  /-- TRAV = 1: bit index `y*W + x`. -/
  | rowMajor
deriving DecidableEq, Repr

/-- The errors of 60_exceptions.md R181 (code 0 is no error, codes 8..15 are never produced). -/
inductive ErrCode where
  /-- 1: an opcode of 0x6 or more. -/
  | eOpc
  /-- 2: a reserved bit of the opcode's format is 1. -/
  | eRsvd
  /-- 3: CONFIG, PROFILE or START while a frame is in progress. -/
  | eBusy
  /-- 4: PIXEL while no frame is open. -/
  | eNotRun
  /-- 5: a frame dimension is 0 or above its parameter. -/
  | eDims
  /-- 6: an unknown profile selector. -/
  | eSel
  /-- 7: START with no configuration accepted since reset. -/
  | eNoCfg
deriving DecidableEq, Repr

/-- The instructions of FSDP: the six commands of 30_encoding.md R71 and the two read requests of R85. Operands are
the unsigned integers of R76; `Instr.wellFormed` bounds each by its field's width. -/
inductive Instr where
  /-- NOP (40_control.md R100). -/
  | nop
  /-- CONFIG W, H, TRAV, BYPASS (40_control.md R102). -/
  | config (w h : Nat) (trav : Traversal) (bypass : Bool)
  /-- PROFILE SEL (40_control.md R104). -/
  | profile (sel : Nat)
  /-- START (40_control.md R106). -/
  | start
  /-- PIXEL R, G, B (41_dither.md R120). -/
  | pixel (r g b : Nat)
  /-- CLEAR (40_control.md R108). -/
  | clear
  /-- READ_REG n (43_readout.md R170). -/
  | readReg (n : Nat)
  /-- READ_BUF a (43_readout.md R172). -/
  | readBuf (a : Nat)
deriving DecidableEq, Repr

/-- What the host presents at one of the two ports: a whole command word or a whole read request
(20_memory.md R55, R56). -/
inductive Request where
  /-- A word on the command port (30_encoding.md R70). -/
  | command (w : CmdWord)
  /-- A request on the read port (30_encoding.md R85). -/
  | read (r : ReadWord)
deriving DecidableEq, Repr

/-- One operation of the host (20_memory.md R60). -/
inductive HostOp where
  /-- A request at a port. -/
  | request (q : Request)
  /-- The reset input (70_reset_and_hazards.md R210), asserted while the host may be presenting a request, which is
  then discarded (60_exceptions.md R189). -/
  | reset (presented : Option Request)
deriving DecidableEq, Repr

/-- What a request decodes to (30_encoding.md R83). -/
inductive Decoded where
  /-- A legal word. -/
  | legal (i : Instr)
  /-- `Illegal(code)`: a reserved opcode or a reserved bit. -/
  | illegal (c : ErrCode)
deriving DecidableEq, Repr

end Sys2Proof
end

