-- ==== Sys2Proof/WellFormed.lean ====
section
/-! DEFINITION. The well-formed instructions: every operand fits its field. An operand outside its field's range
"cannot be encoded" (30_encoding.md R87); a value that fits but that the operation does not accept is no matter of
form (R82). -/

namespace Sys2Proof

/-- Every operand of `i` is in the range of its field: W, H 9 bits (30_encoding.md R73), SEL 8 bits (R74), R, G, B
16 bits (R75), ADDR 15 bits (R85). -/
def Instr.wellFormed : Instr → Bool
  | .nop => true
  | .config w h _ _ => decide (w < 2 ^ 9) && decide (h < 2 ^ 9)
  | .profile sel => decide (sel < 2 ^ 8)
  | .start => true
  | .pixel r g b => decide (r < 2 ^ 16) && decide (g < 2 ^ 16) && decide (b < 2 ^ 16)
  | .clear => true
  | .readReg n => decide (n < 2 ^ 15)
  | .readBuf a => decide (a < 2 ^ 15)

end Sys2Proof
end

