-- ==== Sys2Proof/Decode.lean ====
section
/-! DEFINITION. The decoder of 30_encoding.md R83 and R85, total on every word, rejecting by error code; and the
encoder, written from the formats of R72 to R75 and R85. -/

namespace Sys2Proof

/-- The field of `len` bits from bit `lo` up, read as an unsigned integer (00_scope.md R8, 30_encoding.md R76). -/
def fieldOf {n : Nat} (w : BitVec n) (lo len : Nat) : Nat := (w.extractLsb' lo len).toNat

/-- TRAV's bit as a traversal: 0 column-major, 1 row-major (30_encoding.md R73). -/
def travOfBit (b : Bool) : Traversal := if b then .rowMajor else .columnMajor

/-- A traversal as TRAV's bit (30_encoding.md R73). -/
def travBit : Traversal → BitVec 1
  | .columnMajor => 0#1
  | .rowMajor => 1#1

/-- The reserved-bit mask RSV(OPC) of the opcodes 0x0 to 0x5 (30_encoding.md R80); no other opcode has one. -/
def reservedMask (opc : Nat) : CmdWord :=
  match opc with
  | 0 => 0x0FFFFFFFFFFFFFFF#64
  | 1 => 0x0FFFFFFCFE00FE00#64
  | 2 => 0x0FFFFFFFFFFFFF00#64
  | 3 => 0x0FFFFFFFFFFFFFFF#64
  | 4 => 0x0FFF000000000000#64
  | _ => 0x0FFFFFFFFFFFFFFF#64

/-- The fields of a legal word of opcode `opc` (30_encoding.md R71, R76, R83). -/
def commandOf (opc : Nat) (w : CmdWord) : Instr :=
  match opc with
  | 0 => .nop
  | 1 => .config (fieldOf w 0 9) (fieldOf w 16 9) (travOfBit (w.getLsbD 32)) (w.getLsbD 33)
  | 2 => .profile (fieldOf w 0 8)
  | 3 => .start
  | 4 => .pixel (fieldOf w 0 16) (fieldOf w 16 16) (fieldOf w 32 16)
  | _ => .clear

/-- `decode(w)` of 30_encoding.md R83: the opcode first, then the reserved bits of its format. -/
def decodeCommand (w : CmdWord) : Decoded :=
  if fieldOf w 60 4 ≥ 0x6 then .illegal .eOpc
  else if w &&& reservedMask (fieldOf w 60 4) ≠ 0 then .illegal .eRsvd
  else .legal (commandOf (fieldOf w 60 4) w)

/-- A read request: SP in bit 15 selects the space, ADDR is bits 14..0; every value is legal (30_encoding.md R85). -/
def decodeRead (r : ReadWord) : Instr :=
  if r.getLsbD 15 then .readBuf (fieldOf r 0 15) else .readReg (fieldOf r 0 15)

/-- The decoder of both ports. -/
def decode : Request → Decoded
  | .command w => decodeCommand w
  | .read r => .legal (decodeRead r)

/-- Format N: the opcode and 60 reserved bits (30_encoding.md R72). -/
def formatN (opc : BitVec 4) : CmdWord := opc ++ 0#60

/-- Format C: OPC, 26 reserved bits, BYPASS, TRAV, 7 reserved, H, 7 reserved, W (30_encoding.md R73). -/
def formatC (w h : Nat) (trav : Traversal) (bypass : Bool) : CmdWord :=
  0x1#4 ++ 0#26 ++ BitVec.ofBool bypass ++ travBit trav ++ 0#7 ++ BitVec.ofNat 9 h ++ 0#7 ++ BitVec.ofNat 9 w

/-- Format S: OPC, 52 reserved bits, SEL (30_encoding.md R74). -/
def formatS (sel : Nat) : CmdWord := 0x2#4 ++ 0#52 ++ BitVec.ofNat 8 sel

/-- Format P: OPC, 12 reserved bits, B, G, R (30_encoding.md R75). -/
def formatP (r g b : Nat) : CmdWord :=
  0x4#4 ++ 0#12 ++ BitVec.ofNat 16 b ++ BitVec.ofNat 16 g ++ BitVec.ofNat 16 r

/-- A read request: SP and ADDR (30_encoding.md R85). -/
def formatR (sp : BitVec 1) (addr : Nat) : ReadWord := sp ++ BitVec.ofNat 15 addr

/-- The request whose word is `i`'s encoding. An operand that does not fit its field is cut to it; such an `i` is
not `wellFormed` and has no encoding (30_encoding.md R87). -/
def encode : Instr → Request
  | .nop => .command (formatN 0x0#4)
  | .config w h trav bypass => .command (formatC w h trav bypass)
  | .profile sel => .command (formatS sel)
  | .start => .command (formatN 0x3#4)
  | .pixel r g b => .command (formatP r g b)
  | .clear => .command (formatN 0x5#4)
  | .readReg n => .read (formatR 0#1 n)
  | .readBuf a => .read (formatR 1#1 a)

/-- The request that a row of the opcode table stands for: the command rows have 64 bits and the read rows 16. Words
cross their port whole (20_memory.md R55), so the bits need no byte order. -/
def tableRequest (nbits w : Nat) : Option Request :=
  if nbits = 64 then some (.command (BitVec.ofNat 64 w))
  else if nbits = 16 then some (.read (BitVec.ofNat 16 w))
  else none

/-- The instruction the decoder reads from a word of the opcode table, none where it refuses. -/
def decodeTableWord (nbits w : Nat) : Option Instr :=
  match tableRequest nbits w with
  | none => none
  | some q =>
    match decode q with
    | .legal i => some i
    | .illegal _ => none

end Sys2Proof
end

