-- ==== Sys2Proof/Machine/State.lean ====
section
/-! DEFINITION. The state of FSDP as plain data (10_state.md R20), the reasons a step can stop, and the machine right
after reset (70_reset_and_hazards.md R210). -/

namespace Sys2Proof.Machine

/-- STATE, 2 bits, all four values legal (10_state.md R22). -/
inductive Mode where
  /-- 0: no frame in progress. -/
  | idle
  /-- 1: a frame is being received. -/
  | run
  /-- 2: a complete frame is in BUF. -/
  | done
  /-- 3: an error was raised and not yet cleared. -/
  | error
deriving DecidableEq, Repr

/-- One column of a line-buffer row: three 21-bit two's complement numerators (10_state.md R30). -/
abbrev Entry := Rgb (BitVec 21)

/-- One row of the line buffer, column 0 first (10_state.md R30). -/
abbrev Row := List Entry

/-- What a byte of BUF that no cell lists reads as. -/
inductive Fill where
  /-- Since a START: 0x00 (40_control.md R106). -/
  | zeros
  /-- Since the reset of number `n` and before a START: a free draw per byte (70_reset_and_hazards.md R211). -/
  | unspecified (n : Nat)
deriving DecidableEq, Repr

/-- The bit buffer BUF (10_state.md R32): what an unlisted byte reads as, and the bytes that differ from it in
rising order of address. -/
structure Memory where
  fill : Fill
  cells : List Host.Cell
deriving DecidableEq, Repr

/-- The state of FSDP (10_state.md R20), the parameters beside it (00_scope.md R6), and the host's side of the two
ports. -/
structure State where
  /-- W_MAX and H_MAX (00_scope.md R6); no step writes them. -/
  params : Config.Params
  /-- STATE (10_state.md R22). -/
  mode : Mode
  /-- ERRCODE (10_state.md R23). -/
  errcode : BitVec 4
  /-- CFG_W (10_state.md R24). -/
  cfgW : BitVec 9
  /-- CFG_H (10_state.md R24). -/
  cfgH : BitVec 9
  /-- TRAV (10_state.md R25). -/
  trav : Traversal
  /-- BYPASS (10_state.md R25). -/
  bypass : Bool
  /-- X, the column of the next pixel (10_state.md R26). -/
  x : BitVec 9
  /-- Y, the row of the next pixel (10_state.md R26). -/
  y : BitVec 9
  /-- PIXCOUNT (10_state.md R27). -/
  pixcount : BitVec 18
  /-- ERR_CUR, the error accumulators of row Y (10_state.md R30). -/
  errCur : Row
  /-- ERR_NXT, the error accumulators of row Y+1 (10_state.md R30). -/
  errNxt : Row
  /-- BUF (10_state.md R32). -/
  buf : Memory
  /-- MODEL'S OWN: the resets taken so far; it numbers the free draws of BUF. -/
  resets : Nat
  /-- MODEL'S OWN: the host's operations not yet performed, oldest first (20_memory.md R60). -/
  inbox : List HostOp
  /-- MODEL'S OWN: the responses the read port has given, oldest first (30_encoding.md R85). -/
  responses : List RegValue
deriving DecidableEq, Repr

/-- The reasons a step stops with a fault. No run reaches one: both need a state that 10_state.md R24 and R28
exclude. -/
inductive Fault where
  /-- Raised by PIXEL when the packer's byte address is outside BUF, where 42_pack.md R152 proves it never is. Safe:
  the model stops where the spec gives no memory. -/
  | bufOutside (addr : Nat)
  /-- Raised by PIXEL when the ditherer's column, or its right neighbour inside the frame, is outside the line
  buffer, which 10_state.md R24 and R28 exclude. Safe: the model stops where the spec gives no storage. -/
  | lineOutside (col : Nat)
deriving DecidableEq, Repr

/-- The reasons a step is refused. -/
inductive Refusal where
  /-- Raised by `exec` for an instruction with no meaning yet; none is left. Safe: nothing is claimed of it. -/
  | notModelled (mnemonic : String)
deriving DecidableEq, Repr

/-- Every element as 70_reset_and_hazards.md R210 lists it, for parameters `p` and the reset of number `n`. BUF is
unspecified: no byte is listed and an unlisted one is a free draw. The line buffer is unspecified and never
observable (R211): DESIGN CHOICE, all 0 (notes/assumptions/5.md). -/
def State.afterReset (p : Config.Params) (n : Nat) : State where
  params := p
  mode := .idle
  errcode := 0
  cfgW := 0
  cfgH := 0
  trav := .columnMajor
  bypass := false
  x := 0
  y := 0
  pixcount := 0
  errCur := List.replicate p.wMax (Rgb.all 0)
  errNxt := List.replicate p.wMax (Rgb.all 0)
  buf := { fill := .unspecified n, cells := [] }
  resets := n
  inbox := []
  responses := []

/-- The machine right after its first reset, at the default parameters, with nothing from the host yet
(notes/assumptions/1.md, 3.md). -/
def State.reset : State := State.afterReset Config.Params.default 0

end Sys2Proof.Machine
end

