-- ==== Sys2Proof/Machine/Flags.lean ====
section
/-! DEFINITION. The status codes, and the registers the host reads, as views of the state (10_state.md R33). -/

namespace Sys2Proof.Machine

/-- STATE's 2-bit value (10_state.md R22). -/
def modeBits : Mode → BitVec 2
  | .idle => 0
  | .run => 1
  | .done => 2
  | .error => 3

/-- ERRCODE's 4-bit value (60_exceptions.md R181). -/
def errBits : ErrCode → BitVec 4
  | .eOpc => 1
  | .eRsvd => 2
  | .eBusy => 3
  | .eNotRun => 4
  | .eDims => 5
  | .eSel => 6
  | .eNoCfg => 7

/-- `ceil(a / b)` (00_scope.md R9). -/
def ceilDiv (a b : Nat) : Nat := (a + b - 1) / b

/-- BUF_BYTES, derived from the parameters (00_scope.md R6). -/
def bufBytes (p : Config.Params) : Nat := ceilDiv (p.wMax * p.hMax) 8

/-- BUFLEN, the Bit Buffer's length under the current configuration (20_memory.md R52, 42_pack.md R157). -/
def bufLen (s : State) : Nat := ceilDiv (s.cfgW.toNat * s.cfgH.toNat) 8

/-- Register 0, STATUS: ERRCODE in [7:4], STATE in [1:0] (10_state.md R33). -/
def regStatus (s : State) : RegValue := 0#24 ++ s.errcode ++ 0#2 ++ modeBits s.mode

/-- Register 1, CONFIG: BYPASS [29], TRAV [28], H [24:16], W [8:0] (10_state.md R33). -/
def regConfig (s : State) : RegValue :=
  0#2 ++ BitVec.ofBool s.bypass ++ travBit s.trav ++ 0#3 ++ s.cfgH ++ 0#7 ++ s.cfgW

/-- Register 2, POS: Y [24:16], X [8:0] (10_state.md R33). -/
def regPos (s : State) : RegValue := 0#7 ++ s.y ++ 0#7 ++ s.x

/-- Register 3, PIXCOUNT: [17:0] (10_state.md R33). -/
def regPixcount (s : State) : RegValue := 0#14 ++ s.pixcount

/-- Register 4, BUFLEN (10_state.md R33). -/
def regBuflen (s : State) : RegValue := BitVec.ofNat 32 (bufLen s)

/-- Register 5, PARAMS: H_MAX [24:16], W_MAX [8:0] (10_state.md R33). -/
def regParams (s : State) : RegValue :=
  0#7 ++ BitVec.ofNat 9 s.params.hMax ++ 0#7 ++ BitVec.ofNat 9 s.params.wMax

/-- The register of number `n`; numbers from 6 up are reserved and read 0 (43_readout.md R170, 10_state.md R33). -/
def regValue (n : Nat) (s : State) : RegValue :=
  match n with
  | 0 => regStatus s
  | 1 => regConfig s
  | 2 => regPos s
  | 3 => regPixcount s
  | 4 => regBuflen s
  | 5 => regParams s
  | _ => 0

end Sys2Proof.Machine
end

