-- ==== Sys2Proof/Machine/Ops.lean ====
section
/-! DEFINITION. The named operations over BUF, the line buffer and the control state: errors (60_exceptions.md R185)
and the exits from ERROR, the host's queue and the read port, reset. -/

namespace Sys2Proof.Machine

/-! ### BUF -/

/-- What an unlisted byte of BUF reads as: 0x00 since a START (40_control.md R106), a free draw since a reset
(70_reset_and_hazards.md R211). -/
def fillByte : Fill → Nat → Byte
  | .zeros, _ => 0
  | .unspecified n, a => Config.freeByte n a

/-- The byte a list of cells gives for address `a`. -/
def cellAt (a : Nat) : List Host.Cell → Option Byte
  | [] => none
  | c :: rest => if c.1 = a then some c.2 else cellAt a rest

/-- The cells without the one at address `a`. -/
def eraseCell (a : Nat) : List Host.Cell → List Host.Cell
  | [] => []
  | c :: rest => if c.1 = a then eraseCell a rest else c :: eraseCell a rest

/-- The cells with address `a` at value `v`, in rising order of address. -/
def putCell (a : Nat) (v : Byte) : List Host.Cell → List Host.Cell
  | [] => [(a, v)]
  | c :: rest =>
    if c.1 < a then c :: putCell a v rest
    else if c.1 = a then (a, v) :: rest
    else (a, v) :: c :: rest

/-- `MemRead(a, 1)` on BUF (00_scope.md R9). -/
def readByte (m : Memory) (a : Nat) : Byte := (cellAt a m.cells).getD (fillByte m.fill a)

/-- `MemWrite(a, 1, v)` on BUF (00_scope.md R9), keeping the canonical form. -/
def writeByte (m : Memory) (a : Nat) (v : Byte) : Memory :=
  { m with cells := if v = fillByte m.fill a then eraseCell a m.cells else putCell a v m.cells }

/-- The canonical form of BUF: addresses strictly rising, and no cell that says what an unlisted byte reads as. -/
abbrev Memory.wf (m : Memory) : Prop :=
  m.cells.Pairwise (fun c d => c.1 < d.1) ∧ ∀ c ∈ m.cells, c.2 ≠ fillByte m.fill c.1

/-- BUF with every byte 0x00, as START leaves it (40_control.md R106). -/
def clearedBuf : Memory := { fill := .zeros, cells := [] }

/-- Byte `a` of BUF (00_scope.md R9). -/
def memRead (a : Nat) (s : State) : Byte := readByte s.buf a

/-- BUF's byte `a` set to `v` (00_scope.md R9). -/
def memWrite (a : Nat) (v : Byte) (s : State) : State := { s with buf := writeByte s.buf a v }

/-- Is `a` the address of a byte of BUF (20_memory.md R50)? -/
def inBuf (a : Nat) (s : State) : Bool := decide (a < bufBytes s.params)

/-! ### The line buffer -/

/-- A row of the line buffer with every entry 0. -/
def zeroRow (s : State) : Row := List.replicate s.params.wMax (Rgb.all 0)

/-- The entry of column `i` as integers (10_state.md R30). -/
def rowAt (row : Row) (i : Nat) : Rgb Int := (row.getD i (Rgb.all 0)).map BitVec.toInt

/-- An entry with `weight * q` added in each lane, held at 21 bits (10_state.md R30, 41_dither.md R127). -/
def addToEntry (weight : Int) (q : Rgb Int) (e : Entry) : Entry :=
  Rgb.zip (fun old d => BitVec.ofInt 21 (old.toInt + weight * d)) e q

/-- A row with `weight * q` added to the entry of column `i` (41_dither.md R127). -/
def addToRow (i : Nat) (weight : Int) (q : Rgb Int) (row : Row) : Row := row.modify i (addToEntry weight q)

/-! ### Errors -/

/-- `raise Error(code)`: ERRCODE and STATE, and nothing else (60_exceptions.md R185). -/
def raiseError (c : ErrCode) (s : State) : State := { s with mode := .error, errcode := errBits c }

/-- The exit from ERROR: to IDLE with ERRCODE 0, nothing restored (40_control.md R108, 60_exceptions.md R187). -/
def clearError (s : State) : State := { s with mode := .idle, errcode := 0 }

/-- In ERROR a command word other than CLEAR is ignored: it changes nothing and raises nothing
(60_exceptions.md R184, R186). In every other STATE the command is performed. -/
def unlessError (s : State) (perform : Host.Outcome State Fault Refusal) : Host.Outcome State Fault Refusal :=
  if s.mode = .error then .next s else perform

/-- An illegal command word: its error, unless FSDP is in ERROR (60_exceptions.md R184). -/
def illegalWord (c : ErrCode) (s : State) : Host.Outcome State Fault Refusal :=
  unlessError s (.next (raiseError c s))

/-! ### Configuration and frames -/

/-- The writes of an accepted CONFIG or PROFILE (40_control.md R102, R104). -/
def applyConfig (w h : Nat) (trav : Traversal) (bypass : Bool) (s : State) : State :=
  { s with cfgW := BitVec.ofNat 9 w, cfgH := BitVec.ofNat 9 h, trav := trav, bypass := bypass, mode := .idle }

/-- The writes of an accepted START: BUF and the line buffer cleared, the position and the counter at 0, STATE RUN
(40_control.md R106). -/
def beginFrame (s : State) : State :=
  { s with buf := clearedBuf, errCur := zeroRow s, errNxt := zeroRow s, x := 0, y := 0, pixcount := 0, mode := .run }

/-! ### The host's side -/

/-- The read port gives a response (30_encoding.md R85); reads change no other state (10_state.md R21). -/
def respond (v : RegValue) (s : State) : State := { s with responses := s.responses ++ [v] }

/-- Reset: every element of 70_reset_and_hazards.md R210, BUF under a new free draw. The request being presented,
if any, is discarded (60_exceptions.md R189). The parameters, and what the host has sent and received, are no
elements of R210 and stay. -/
def hostReset (_presented : Option Request) (s : State) : State :=
  { State.afterReset s.params (s.resets + 1) with inbox := s.inbox, responses := s.responses }

/-- With no operation from the host nothing changes: "idle modes in which nothing changes until the next command"
(60_exceptions.md R196); in RUN and ERROR too only an operation changes state (10_state.md R21). -/
def waitForHost (s : State) : State := s

/-- The host's next operation and the state with it taken from the queue (20_memory.md R60). -/
def nextOp (s : State) : Option (HostOp × State) :=
  match s.inbox with
  | [] => none
  | op :: rest => some (op, { s with inbox := rest })

/-- The state with a request put before every other operation of the host. -/
def pushRequest (q : Request) (s : State) : State := { s with inbox := .request q :: s.inbox }

end Sys2Proof.Machine
end

