-- ==== Sys2Proof/Machine/Operands.lean ====
section
/-! DEFINITION. The operand checks of CONFIG and PROFILE, the pixel-to-bit index, and the value a read request names. -/

namespace Sys2Proof.Machine

/-- CONFIG's dimension check: 0 or above a parameter is out of range (40_control.md R102). -/
def badDims (p : Config.Params) (w h : Nat) : Bool :=
  decide (w = 0) || decide (h = 0) || decide (w > p.wMax) || decide (h > p.hMax)

/-- The fixed dimensions a selector names: 0 `profile`, 1 `splash`, none otherwise (40_control.md R104). -/
def profileDims (sel : Nat) : Option (Nat × Nat) :=
  match sel with
  | 0 => some (120, 128)
  | 1 => some (246, 128)
  | _ => none

/-- A profile that exceeds the parameters (40_control.md R104). -/
def profileTooLarge (p : Config.Params) (w h : Nat) : Bool := decide (w > p.wMax) || decide (h > p.hMax)

/-- START's check: no configuration accepted since reset (40_control.md R106). -/
def unconfigured (s : State) : Bool := decide (s.cfgW = 0) || decide (s.cfgH = 0)

/-- `idx(x, y)`, the bit index of the pixel at column `x`, row `y` (42_pack.md R150). -/
def bitIndex (trav : Traversal) (w h x y : Nat) : Nat :=
  match trav with
  | .columnMajor => x * h + y
  | .rowMajor => y * w + x

/-- The bit index of the pixel at the current position. -/
def curIndex (s : State) : Nat := bitIndex s.trav s.cfgW.toNat s.cfgH.toNat s.x.toNat s.y.toNat

/-- What READ_BUF returns for address `a`: the byte zero-extended, 0 beyond BUF (43_readout.md R172). -/
def bufValue (a : Nat) (s : State) : RegValue := if inBuf a s then (memRead a s).setWidth 32 else 0

end Sys2Proof.Machine
end

