-- ==== Sys2Proof/Machine/Control.lean ====
section
/-! DEFINITION. The control commands NOP, CONFIG, PROFILE, START and CLEAR (40_control.md). -/

namespace Sys2Proof.Machine

/-- NOP: no effect (40_control.md R100). -/
def execNop (s : State) : Host.Outcome State Fault Refusal := unlessError s (.next s)

/-- CONFIG: E_BUSY in RUN, then E_DIMS, else the configuration (40_control.md R102). -/
def execConfig (w h : Nat) (trav : Traversal) (bypass : Bool) (s : State) : Host.Outcome State Fault Refusal :=
  unlessError s <| .next <|
    if s.mode = .run then raiseError .eBusy s
    else if badDims s.params w h then raiseError .eDims s
    else applyConfig w h trav bypass s

/-- PROFILE: E_BUSY in RUN, then E_SEL, then E_DIMS, else the profile's dimensions, column-major, dithering on
(40_control.md R104). -/
def execProfile (sel : Nat) (s : State) : Host.Outcome State Fault Refusal :=
  unlessError s <| .next <|
    if s.mode = .run then raiseError .eBusy s
    else
      match profileDims sel with
      | none => raiseError .eSel s
      | some (w, h) =>
        if profileTooLarge s.params w h then raiseError .eDims s
        else applyConfig w h .columnMajor false s

/-- START: E_BUSY in RUN, then E_NOCFG, else a new frame (40_control.md R106). -/
def execStart (s : State) : Host.Outcome State Fault Refusal :=
  unlessError s <| .next <|
    if s.mode = .run then raiseError .eBusy s
    else if unconfigured s then raiseError .eNoCfg s
    else beginFrame s

/-- CLEAR: leaves ERROR; no effect elsewhere (40_control.md R108). -/
def execClear (s : State) : Host.Outcome State Fault Refusal :=
  .next (if s.mode = .error then clearError s else s)

end Sys2Proof.Machine
end

