-- ==== Sys2Proof/Machine/Dither.lean ====
section
/-! DEFINITION. The Floyd–Steinberg datapath (41_dither.md R122 to R128) and the bypass classification (R131). -/

namespace Sys2Proof.Machine

/-- The two palette colours (41_dither.md R122). -/
inductive Colour where
  | black
  | white
deriving DecidableEq, Repr

/-- A palette colour's value in each channel: 0 or 65535 (41_dither.md R122). -/
def colourLevel : Colour → Int
  | .black => 0
  | .white => 65535

/-- The output bit: Black 1, White 0 (41_dither.md R128). -/
def colourBit : Colour → Bool
  | .black => true
  | .white => false

/-- `tdiv16`: the quotient by 16 truncated toward zero (00_scope.md R9). -/
def tdiv16 (a : Int) : Int := a.sign * ((a.natAbs / 16 : Nat) : Int)

/-- `clamp16`: saturation to 0..65535 (00_scope.md R9). -/
def clamp16 (v : Int) : Int := if v < 0 then 0 else if v > 65535 then 65535 else v

/-- The error-adjusted value of each channel (41_dither.md R124). -/
def adjusted (pixel : Rgb Nat) (err : Rgb Int) : Rgb Int :=
  Rgb.zip (fun (i : Nat) e => clamp16 (i + tdiv16 e)) pixel err

/-- The squared distance of `v` to a palette colour (41_dither.md R125). -/
def distance (v : Rgb Int) (p : Colour) : Int :=
  (colourLevel p - v.r) ^ 2 + (colourLevel p - v.g) ^ 2 + (colourLevel p - v.b) ^ 2

/-- The nearest palette colour (41_dither.md R125). -/
def nearest (v : Rgb Int) : Colour := if distance v .black ≤ distance v .white then .black else .white

/-- The quantisation error, taken from the error-adjusted value (41_dither.md R126). -/
def quantError (v : Rgb Int) (p : Colour) : Rgb Int := v.map (fun c => c - colourLevel p)

/-- The shares of the row below: 3 below-left, 5 below, 1 below-right; a target outside the frame receives nothing
(41_dither.md R127). -/
def diffuseBelow (w x : Nat) (q : Rgb Int) (row : Row) : Row :=
  let left := if x ≥ 1 then addToRow (x - 1) 3 q row else row
  let below := addToRow x 5 q left
  if x + 1 < w then addToRow (x + 1) 1 q below else below

/-- The share of the current row: 7 to the right, inside the frame (41_dither.md R127). -/
def diffuseRight (w x : Nat) (q : Rgb Int) (row : Row) : Row :=
  if x + 1 < w then addToRow (x + 1) 7 q row else row

/-- Diffusion into the line buffer (41_dither.md R127). -/
def diffuse (q : Rgb Int) (s : State) : State :=
  { s with
    errCur := diffuseRight s.cfgW.toNat s.x.toNat q s.errCur
    errNxt :=
      if s.y.toNat + 1 < s.cfgH.toNat then diffuseBelow s.cfgW.toNat s.x.toNat q s.errNxt else s.errNxt }

/-- `dither(X, Y, in)`: the output bit, and the state with the error diffused (41_dither.md R123). -/
def dither (pixel : Rgb Nat) (s : State) : Bool × State :=
  let v := adjusted pixel (rowAt s.errCur s.x.toNat)
  let p := nearest v
  (colourBit p, diffuse (quantError v p) s)

/-- `classify(in)`: 1 exactly when R+G+B is 0 (41_dither.md R131). -/
def classify (pixel : Rgb Nat) : Bool := decide (pixel.r + pixel.g + pixel.b = 0)

/-- Are the columns that dithering touches, X and inside the frame X+1, columns of the line buffer
(10_state.md R30)? -/
def lineInside (s : State) : Bool :=
  decide (s.x.toNat < s.params.wMax) &&
    (decide (s.x.toNat + 1 ≥ s.cfgW.toNat) || decide (s.x.toNat + 1 < s.params.wMax))

/-- The pixel's bit: classified in bypass, which neither reads nor writes the line buffer (41_dither.md R131),
dithered otherwise (R120). -/
def pixelBit (pixel : Rgb Nat) (s : State) : Except Fault (Bool × State) :=
  if s.bypass then .ok (classify pixel, s)
  else if lineInside s then .ok (dither pixel s)
  else .error (.lineOutside s.x.toNat)

end Sys2Proof.Machine
end

