-- ==== Sys2Proof/Machine/Pack.lean ====
section
/-! DEFINITION. The bit packer (42_pack.md R152). -/

namespace Sys2Proof.Machine

/-- `b OR (bit << m)` with m = 7 - (k mod 8): bit index `k` within its byte, MSB-first (42_pack.md R152,
20_memory.md R54). -/
def setBit (b : Byte) (k : Nat) (bit : Bool) : Byte :=
  b ||| ((BitVec.ofBool bit).setWidth 8 <<< (7 - k % 8))

/-- `pack(X, Y, bit)` at the current position (42_pack.md R152). -/
def pack (bit : Bool) (s : State) : Except Fault State :=
  let k := curIndex s
  let a := k / 8
  if inBuf a s then .ok (memWrite a (setBit (memRead a s) k bit) s) else .error (.bufOutside a)

end Sys2Proof.Machine
end

