-- ==== Sys2Proof/Machine/Pixel.lean ====
section
/-! DEFINITION. PIXEL (41_dither.md R120) and the advance of the position (R129). -/

namespace Sys2Proof.Machine

/-- The end of a row: column 0 of the next row, and the line buffer's rows move up (41_dither.md R129). -/
def endRow (s : State) : State :=
  { s with x := 0, y := s.y + 1, errCur := s.errNxt, errNxt := zeroRow s }

/-- The end of the frame: STATE DONE when the row reached is CFG_H (41_dither.md R129, 42_pack.md R156). -/
def endFrame (s : State) : State := if s.y = s.cfgH then { s with mode := .done } else s

/-- The counter and the column, each one up (41_dither.md R129). -/
def countPixel (s : State) : State := { s with pixcount := s.pixcount + 1, x := s.x + 1 }

/-- `advance()` (41_dither.md R129). -/
def advance (s : State) : State :=
  let s := countPixel s
  if s.x = s.cfgW then endFrame (endRow s) else s

/-- An accepted PIXEL: its bit, packed, then the position advanced (41_dither.md R120). -/
def takePixel (pixel : Rgb Nat) (s : State) : Host.Outcome State Fault Refusal :=
  match pixelBit pixel s with
  | .error f => .fault f
  | .ok (bit, dithered) =>
    match pack bit dithered with
    | .error f => .fault f
    | .ok packed => .next (advance packed)

/-- PIXEL: E_NOTRUN outside RUN, else the next pixel of the frame (41_dither.md R120). -/
def execPixel (r g b : Nat) (s : State) : Host.Outcome State Fault Refusal :=
  unlessError s <|
    if s.mode = .run then takePixel ⟨r, g, b⟩ s else .next (raiseError .eNotRun s)

end Sys2Proof.Machine
end

