-- ==== Sys2Proof/Machine/Readout.lean ====
section
/-! DEFINITION. The host's reads READ_REG and READ_BUF (43_readout.md), allowed in every STATE. -/

namespace Sys2Proof.Machine

/-- READ_REG n (43_readout.md R170). -/
def execReadReg (n : Nat) (s : State) : Host.Outcome State Fault Refusal := .next (respond (regValue n s) s)

/-- READ_BUF a (43_readout.md R172). -/
def execReadBuf (a : Nat) (s : State) : Host.Outcome State Fault Refusal := .next (respond (bufValue a s) s)

end Sys2Proof.Machine
end

