-- ==== Sys2Proof/Machine/Dispatch.lean ====
section
/-! DEFINITION. The meaning of each instruction, one arm per constructor. -/

namespace Sys2Proof.Machine

def exec (i : Instr) (s : State) : Host.Outcome State Fault Refusal :=
  match i with
  | .nop => Sys2Proof.Machine.execNop s
  | .config w h trav bypass => Sys2Proof.Machine.execConfig w h trav bypass s
  | .profile sel => Sys2Proof.Machine.execProfile sel s
  | .start => Sys2Proof.Machine.execStart s
  | .pixel r g b => Sys2Proof.Machine.execPixel r g b s
  | .clear => Sys2Proof.Machine.execClear s
  | .readReg n => Sys2Proof.Machine.execReadReg n s
  | .readBuf a => Sys2Proof.Machine.execReadBuf a s

end Sys2Proof.Machine
end

