-- ==== Sys2Proof/Machine/Step.lean ====
section
/-! DEFINITION. One step: the host's next operation, performed whole (20_memory.md R60, 60_exceptions.md R184). -/

namespace Sys2Proof.Machine

/-- One operation of the host: reset, an illegal word, or the instruction a legal word or a read request decodes to;
with no operation pending nothing changes. -/
def step (s : State) : Host.Outcome State Fault Refusal :=
  match nextOp s with
  | none => .next (waitForHost s)
  | some (.reset presented, t) => .next (hostReset presented t)
  | some (.request q, t) =>
    match decode q with
    | .legal i => exec i t
    | .illegal c => illegalWord c t

/-- The state whose next operation is the word `w` of a row of the opcode table: a command on the command port, or a
request on the read port, put before every other operation of the host. -/
def State.withFetchWord (s : State) (nbits w : Nat) : State :=
  match tableRequest nbits w with
  | none => s
  | some q => pushRequest q s

end Sys2Proof.Machine
end

