-- ==== Sys2Proof/Machine/Assembler.lean ====
section
/-! DEFINITION. The spec's textual syntax of host programs, one operation a line (30_encoding.md R87), with the
pseudo-instructions (R88). It is notation only (92_eei_decisions.md D26): no step of the machine reads text. -/

namespace Sys2Proof.Machine

/-- What a line of text stands for. -/
inductive AsmLine where
  /-- Only blanks or a comment. -/
  | empty
  /-- A command or a read request. -/
  | instr (i : Instr)
  /-- RESET, the reset input; not a word. -/
  | reset
deriving DecidableEq, Repr

/-- What a line assembles to. -/
inductive Assembled where
  /-- Nothing to perform. -/
  | nothing
  /-- An operation of the host. -/
  | op (o : HostOp)
  /-- An assembly error: an operand outside its field's range. -/
  | outOfRange
  /-- An assembly error: not a line of the syntax. -/
  | badLine
deriving DecidableEq, Repr

/-- A blank: space, tab or carriage return. -/
def isBlank (c : Char) : Bool := c = ' ' || c = '\t' || c = '\r'

/-- The text without the blanks at its start. -/
def dropBlanks : List Char → List Char
  | [] => []
  | c :: rest => if isBlank c then dropBlanks rest else c :: rest

/-- The text without the blanks at either end. -/
def trim (cs : List Char) : List Char := (dropBlanks (dropBlanks cs).reverse).reverse

/-- The text before a `;`, which starts a comment. -/
def withoutComment : List Char → List Char
  | [] => []
  | c :: rest => if c = ';' then [] else c :: withoutComment rest

/-- The first word of a text and what follows it. -/
def firstWord : List Char → List Char × List Char
  | [] => ([], [])
  | c :: rest => if isBlank c then ([], rest) else ((c :: (firstWord rest).1), (firstWord rest).2)

/-- The parts of a text between commas. -/
def splitCommas : List Char → List (List Char)
  | [] => [[]]
  | c :: rest =>
    if c = ',' then [] :: splitCommas rest
    else
      match splitCommas rest with
      | [] => [[c]]
      | part :: parts => (c :: part) :: parts

/-- The operands of a text: none when it is blank, else its trimmed parts. -/
def operandsOf (cs : List Char) : List (List Char) := if trim cs = [] then [] else (splitCommas cs).map trim

/-- A digit's value in a base up to 16. -/
def digitOf (base : Nat) (c : Char) : Option Nat :=
  let n := c.toNat
  let v := if 48 ≤ n ∧ n ≤ 57 then n - 48
    else if 97 ≤ n ∧ n ≤ 102 then n - 87
    else if 65 ≤ n ∧ n ≤ 70 then n - 55
    else 16
  if v < base then some v else none

/-- The digits of a text read on from the value `acc`. -/
def digitsFrom (base : Nat) : Nat → List Char → Option Nat
  | acc, [] => some acc
  | acc, c :: rest =>
    match digitOf base c with
    | none => none
    | some d => digitsFrom base (acc * base + d) rest

/-- A number: decimal, or hexadecimal after `0x`; at least one digit. -/
def numberOf : List Char → Option Nat
  | [] => none
  | '0' :: 'x' :: rest => if rest = [] then none else digitsFrom 16 0 rest
  | cs => digitsFrom 10 0 cs

/-- What follows a key such as `w=`. -/
def afterKey : List Char → List Char → Option (List Char)
  | [], cs => some cs
  | _ :: _, [] => none
  | k :: ks, c :: cs => if k = c then afterKey ks cs else none

/-- The number after a key. -/
def keyedNumber (key cs : List Char) : Option Nat := (afterKey key cs).bind numberOf

/-- `trav=col` or `trav=row`. -/
def travOperand (cs : List Char) : Option Traversal :=
  if cs = "trav=col".toList then some .columnMajor
  else if cs = "trav=row".toList then some .rowMajor
  else none

/-- `bypass=0` or `bypass=1`. -/
def bypassOperand (cs : List Char) : Option Bool :=
  if cs = "bypass=0".toList then some false
  else if cs = "bypass=1".toList then some true
  else none

/-- The optional operands of CONFIG, in their order; `trav` defaults to `col`, `bypass` to 0. -/
def configOptions : List (List Char) → Option (Traversal × Bool)
  | [] => some (.columnMajor, false)
  | [o] =>
    match travOperand o with
    | some t => some (t, false)
    | none => (bypassOperand o).map (fun b => (.columnMajor, b))
  | [o, p] => (travOperand o).bind (fun t => (bypassOperand p).map (fun b => (t, b)))
  | _ => none

/-- CONFIG's operands. -/
def configLine : List (List Char) → Option Instr
  | w :: h :: options =>
    (keyedNumber "w=".toList w).bind fun w =>
      (keyedNumber "h=".toList h).bind fun h =>
        (configOptions options).map fun o => .config w h o.1 o.2
  | _ => none

/-- PROFILE's selector: a profile's name or a number. -/
def selectorOf (cs : List Char) : Option Nat :=
  if cs = "profile".toList then some 0 else if cs = "splash".toList then some 1 else numberOf cs

/-- A register's name or number (10_state.md R33). -/
def registerOf (cs : List Char) : Option Nat :=
  if cs = "STATUS".toList then some 0
  else if cs = "CONFIG".toList then some 1
  else if cs = "POS".toList then some 2
  else if cs = "PIXCOUNT".toList then some 3
  else if cs = "BUFLEN".toList then some 4
  else if cs = "PARAMS".toList then some 5
  else numberOf cs

/-- The one operand of an operation that takes one. -/
def oneOperand (read : List Char → Option Nat) (make : Nat → Instr) : List (List Char) → Option Instr
  | [o] => (read o).map make
  | _ => none

/-- PIXEL's operands. -/
def pixelLine : List (List Char) → Option Instr
  | [r, g, b] =>
    (numberOf r).bind fun r => (numberOf g).bind fun g => (numberOf b).map fun b => .pixel r g b
  | _ => none

/-- An operation that takes no operand. -/
def noOperand (line : AsmLine) (operands : List (List Char)) : Option AsmLine :=
  if operands = [] then some line else none

/-- An upper-case mnemonic with its operands (30_encoding.md R87, R88). -/
def operationOf (mnemonic : List Char) (operands : List (List Char)) : Option AsmLine :=
  if mnemonic = "NOP".toList then noOperand (.instr .nop) operands
  else if mnemonic = "CONFIG".toList then (configLine operands).map .instr
  else if mnemonic = "PROFILE".toList then (oneOperand selectorOf .profile operands).map .instr
  else if mnemonic = "START".toList then noOperand (.instr .start) operands
  else if mnemonic = "PIXEL".toList then (pixelLine operands).map .instr
  else if mnemonic = "CLEAR".toList then noOperand (.instr .clear) operands
  else if mnemonic = "RDREG".toList then (oneOperand registerOf .readReg operands).map .instr
  else if mnemonic = "RDBUF".toList then (oneOperand numberOf .readBuf operands).map .instr
  else if mnemonic = "RESET".toList then noOperand .reset operands
  else if mnemonic = "BLACK".toList then noOperand (.instr (.pixel 0 0 0)) operands
  else if mnemonic = "WHITE".toList then noOperand (.instr (.pixel 65535 65535 65535)) operands
  else if mnemonic = "GRAY".toList then (oneOperand numberOf (fun v => .pixel v v v) operands).map .instr
  else none

/-- A line of text: the mnemonic first, in either case, then its operands (30_encoding.md R87). -/
def parseLine (cs : List Char) : Option AsmLine :=
  let text := trim (withoutComment cs)
  if text = [] then some .empty
  else operationOf ((firstWord text).1.map Char.toUpper) (operandsOf (firstWord text).2)

/-- The host operation of a line; an operand outside its field's range is an assembly error (30_encoding.md R87). -/
def assemble (cs : List Char) : Assembled :=
  match parseLine cs with
  | none => .badLine
  | some .empty => .nothing
  | some .reset => .op (.reset none)
  | some (.instr i) => if i.wellFormed then .op (.request (encode i)) else .outOfRange

end Sys2Proof.Machine
end

