-- ==== Sys2Proof/Safety.lean ====
section
/-! DEFINITION. The terms claims are made in: the invariants of a state, a sequence of instructions, one bit of BUF,
and the frame as the spec describes it over a whole canvas (41_dither.md R137, 42_pack.md R155). -/

namespace Sys2Proof.Machine

/-! ### Invariants of a state -/

/-- What holds of every state a run reaches: the ranges of the configuration (10_state.md R24), the position and the
counter (R26, R27, R28), ERRCODE (R23), the shapes of the line buffer (R30) and of BUF (R32). -/
structure State.Inv (s : State) : Prop where
  /-- The parameters are legal (00_scope.md R6). -/
  params_legal : s.params.legal
  /-- Unconfigured, or both dimensions in range (10_state.md R24). -/
  config_legal : (s.cfgW = 0 ∧ s.cfgH = 0) ∨
    (1 ≤ s.cfgW.toNat ∧ s.cfgW.toNat ≤ s.params.wMax ∧ 1 ≤ s.cfgH.toNat ∧ s.cfgH.toNat ≤ s.params.hMax)
  /-- In RUN the position is inside the frame (10_state.md R28). -/
  run_position : s.mode = .run → s.x.toNat < s.cfgW.toNat ∧ s.y.toNat < s.cfgH.toNat
  /-- At DONE the position is (0, CFG_H) and the block is configured (42_pack.md R156). -/
  done_position : s.mode = .done → s.x = 0 ∧ s.y = s.cfgH ∧ s.cfgW ≠ 0 ∧ s.cfgH ≠ 0
  /-- In RUN and DONE the counter is `Y*CFG_W + X` (10_state.md R27). -/
  frame_pixcount : s.mode = .run ∨ s.mode = .done →
    s.pixcount.toNat = s.y.toNat * s.cfgW.toNat + s.x.toNat
  /-- ERRCODE is 0 exactly outside ERROR (10_state.md R23). -/
  errcode_zero : s.errcode = 0 ↔ s.mode ≠ .error
  /-- The codes 8..15 are never produced (60_exceptions.md R181). -/
  errcode_le : s.errcode.toNat ≤ 7
  /-- ERR_CUR has W_MAX columns (10_state.md R20). -/
  cur_length : s.errCur.length = s.params.wMax
  /-- ERR_NXT has W_MAX columns (10_state.md R20). -/
  nxt_length : s.errNxt.length = s.params.wMax
  /-- BUF is in its canonical form. -/
  buf_wf : s.buf.wf
  /-- BUF lists only its own bytes (10_state.md R32). -/
  buf_inside : ∀ c ∈ s.buf.cells, c.1 < bufBytes s.params
  /-- A frame's BUF was cleared by its START (40_control.md R106). -/
  frame_cleared : s.mode = .run ∨ s.mode = .done → s.buf.fill = .zeros
  /-- BUF's unspecified contents are those of the last reset (70_reset_and_hazards.md R211). -/
  draw_last : s.buf.fill = .zeros ∨ s.buf.fill = .unspecified s.resets

/-- Each lane of an entry is at most `bound` in absolute value. -/
def entryWithin (bound : Int) (e : Rgb Int) : Prop := |e.r| ≤ bound ∧ |e.g| ≤ bound ∧ |e.b| ≤ bound

/-- The kernel weight that column `i` of ERR_CUR can have received when the pixel of column `x` is next: 16 up to
that pixel, 9 (1 + 5 + 3) beyond it (41_dither.md R127, R137). -/
def curWeight (x i : Nat) : Int := if i ≤ x then 16 else 9

/-- The kernel weight that column `i` of ERR_NXT can have received when the pixel of column `x` is next: 3 from the
pixel to its right, 5 from the one above, 1 from the one to its left, each once it is dithered (41_dither.md R127). -/
def nxtWeight (x i : Nat) : Int :=
  (if i + 1 < x then 3 else 0) + (if i < x then 5 else 0) + (if 1 ≤ i ∧ i ≤ x then 1 else 0)

/-- No entry of the line buffer exceeds its weight times 65535 (10_state.md R30, 41_dither.md R137): in RUN by what
each column can have received, elsewhere by the whole kernel's 16. In the frame's last row ERR_NXT is 0, since the
shares below it are dropped, and at DONE the whole line buffer is 0 (95_test_vectors.md). -/
structure State.LineBounded (s : State) : Prop where
  run_cur : s.mode = .run → ∀ i, entryWithin (curWeight s.x.toNat i * 65535) (rowAt s.errCur i)
  run_nxt : s.mode = .run → ∀ i, entryWithin (nxtWeight s.x.toNat i * 65535) (rowAt s.errNxt i)
  all_cur : ∀ i, entryWithin (16 * 65535) (rowAt s.errCur i)
  all_nxt : ∀ i, entryWithin (16 * 65535) (rowAt s.errNxt i)
  last_row : s.mode = .run → s.y.toNat + 1 = s.cfgH.toNat → ∀ i, rowAt s.errNxt i = Rgb.all 0
  done_zero : s.mode = .done → ∀ i, rowAt s.errCur i = Rgb.all 0 ∧ rowAt s.errNxt i = Rgb.all 0

/-- Bit index `k` of the Bit Buffer: the bit of value `2^(7 - k mod 8)` of byte `k div 8` (20_memory.md R54). -/
def bitOf (k : Nat) (s : State) : Bool := (memRead (k / 8) s).getLsbD (7 - k % 8)

/-- In a frame only the bits of pixels already supplied can be 1: padding bits, bytes beyond the Bit Buffer and the
bits of pixels not yet supplied are 0 (20_memory.md R52, 70_reset_and_hazards.md R221). The `n`-th pixel is the one
at column `n mod W`, row `n div W` (41_dither.md R121). -/
def State.OnlySuppliedBits (s : State) : Prop :=
  s.mode = .run ∨ s.mode = .done → ∀ k, bitOf k s = true →
    ∃ n, n < s.pixcount.toNat ∧
      k = bitIndex s.trav s.cfgW.toNat s.cfgH.toNat (n % s.cfgW.toNat) (n / s.cfgW.toNat)

/-! ### Sequences of instructions -/

/-- The instruction that the host's next operation decodes to, where it is a legal request (30_encoding.md R83). -/
def nextInstr (s : State) : Option Instr :=
  match s.inbox with
  | .request q :: _ =>
    match decode q with
    | .legal i => some i
    | .illegal _ => none
  | _ => none

/-- Is the host's next operation the reset input (70_reset_and_hazards.md R210)? -/
def nextIsReset (s : State) : Bool :=
  match s.inbox with
  | .reset _ :: _ => true
  | _ => false

/-- The instructions in order, each once the one before it is complete (20_memory.md R60). -/
def execAll : List Instr → State → Host.Outcome State Fault Refusal
  | [], s => .next s
  | i :: rest, s =>
    match exec i s with
    | .next t => execAll rest t
    | .fault f => .fault f
    | .refused r => .refused r

/-- PIXEL for each pixel of a list. -/
def pixels (ps : List (Rgb Nat)) : List Instr := ps.map fun p => .pixel p.r p.g p.b

/-- The pixels a sequence supplies. -/
def pixelsOf : List Instr → List (Rgb Nat)
  | [] => []
  | .pixel r g b :: rest => ⟨r, g, b⟩ :: pixelsOf rest
  | _ :: rest => pixelsOf rest

/-- The instructions that may stand between the pixels of a frame without touching it: NOPs and reads
(41_dither.md R136), and the pixels themselves. -/
def frameInstr : Instr → Bool
  | .nop => true
  | .pixel _ _ _ => true
  | .readReg _ => true
  | .readBuf _ => true
  | .config _ _ _ _ => false
  | .profile _ => false
  | .start => false
  | .clear => false

/-! ### One pixel -/

/-- Scaled errors added lane by lane to an entry (41_dither.md R127). -/
def plusShare (entry : Rgb Int) (weight : Int) (q : Rgb Int) : Rgb Int :=
  Rgb.zip (fun old d => old + weight * d) entry q

/-- The kernel weight from the pixel of column `x` to column `i` of the row below it, in a frame `w` wide: 3 to the
left, 5 below, 1 to the right (41_dither.md R127). -/
def belowWeight (w x i : Nat) : Int :=
  if i + 1 = x then 3 else if i = x then 5 else if i = x + 1 ∧ i < w then 1 else 0

/-! ### The frame over a whole canvas -/

/-- The share of an earlier pixel's error, where that pixel is on the canvas. -/
def shareOf (onCanvas : Bool) (weight : Int) (q : Rgb Int) : Rgb Int :=
  if onCanvas then q.map (fun c => weight * c) else Rgb.all 0

/-- The accumulated error of the next pixel (x, y) of a canvas `w` wide, from the errors `qs` of every pixel before
it in raster order: `7*q(x-1, y) + 1*q(x-1, y-1) + 5*q(x, y-1) + 3*q(x+1, y-1)`, a term omitted when its pixel is
outside the canvas (41_dither.md R137). -/
def accumulated (w : Nat) (qs : List (Rgb Int)) : Rgb Int :=
  let n := qs.length
  let x := n % w
  let y := n / w
  let q := fun i => qs.getD i (Rgb.all 0)
  let left := shareOf (decide (1 ≤ x)) 7 (q (n - 1))
  let aboveLeft := shareOf (decide (1 ≤ x ∧ 1 ≤ y)) 1 (q (n - w - 1))
  let above := shareOf (decide (1 ≤ y)) 5 (q (n - w))
  let aboveRight := shareOf (decide (1 ≤ y ∧ x + 1 < w)) 3 (q (n - w + 1))
  Rgb.zip (· + ·) (Rgb.zip (· + ·) left aboveLeft) (Rgb.zip (· + ·) above aboveRight)

/-- The error-adjusted value of the next pixel `p`, after pixels of errors `qs` (41_dither.md R124, R137). -/
def canvasValue (w : Nat) (qs : List (Rgb Int)) (p : Rgb Nat) : Rgb Int := adjusted p (accumulated w qs)

/-- The errors of the pixels `ps` that follow pixels of errors `qs` (41_dither.md R126): all of them in order. -/
def canvasErrors (w : Nat) : List (Rgb Int) → List (Rgb Nat) → List (Rgb Int)
  | qs, [] => qs
  | qs, p :: ps =>
    let v := canvasValue w qs p
    canvasErrors w (qs ++ [quantError v (nearest v)]) ps

/-- The output bits of the pixels `ps` that follow pixels of errors `qs` (41_dither.md R128). -/
def canvasBits (w : Nat) : List (Rgb Int) → List (Rgb Nat) → List Bool
  | _, [] => []
  | qs, p :: ps =>
    let v := canvasValue w qs p
    colourBit (nearest v) :: canvasBits w (qs ++ [quantError v (nearest v)]) ps

/-- The bits of a whole frame in raster order: dithered, or classified in bypass (41_dither.md R120, R131). -/
def frameBits (bypass : Bool) (w : Nat) (ps : List (Rgb Nat)) : List Bool :=
  if bypass then ps.map classify else canvasBits w [] ps

end Sys2Proof.Machine
end

