-- ==== Sys2Proof/Certificates/Slice0/Obligations.lean ====
section
/-! DEFINITION. The statements for the provers, from the numbered rules of spec/. Each docstring names the rule or the
section it formalises. `inbox`, `responses`, `resets` and `params` are the model's own fields
(notes/assumptions/1.md to 4.md): a clause about one of them says what the model does, not a rule of the spec. -/

open Sys2Proof Sys2Proof.Machine

/-! ### Encoding -/

/-- R83, on the word as a number, with R80's masks written out: the opcode first, then the reserved bits, then the
fields; and two distinct legal words decode to distinct commands. -/
def Obligations.DecodeFollowsOpcodeThenReservedBits : Prop :=
  (∀ w : CmdWord,
    let opc := w.toNat / 2 ^ 60
    let rsv : CmdWord :=
      if opc = 1 then 0x0FFFFFFCFE00FE00#64
      else if opc = 2 then 0x0FFFFFFFFFFFFF00#64
      else if opc = 4 then 0x0FFF000000000000#64
      else 0x0FFFFFFFFFFFFFFF#64
    (opc ≥ 6 → decode (.command w) = .illegal .eOpc) ∧
    (opc < 6 → w &&& rsv ≠ 0 → decode (.command w) = .illegal .eRsvd) ∧
    (opc < 6 → w &&& rsv = 0 →
      decode (.command w) = .legal
        (if opc = 0 then .nop
        else if opc = 1 then
          .config (w.toNat % 2 ^ 9) (w.toNat / 2 ^ 16 % 2 ^ 9)
            (if w.toNat / 2 ^ 32 % 2 = 0 then .columnMajor else .rowMajor) (decide (w.toNat / 2 ^ 33 % 2 = 1))
        else if opc = 2 then .profile (w.toNat % 2 ^ 8)
        else if opc = 3 then .start
        else if opc = 4 then
          .pixel (w.toNat % 2 ^ 16) (w.toNat / 2 ^ 16 % 2 ^ 16) (w.toNat / 2 ^ 32 % 2 ^ 16)
        else .clear))) ∧
  (∀ (w w' : CmdWord) (i : Instr),
    decode (.command w) = .legal i → decode (.command w') = .legal i → w = w')

/-- Part of R85: SP = r[15] selects the space, ADDR = r[14:0] is the number or the address, and every 16-bit value is
a legal request. -/
def Obligations.EveryReadRequestIsLegal : Prop :=
  ∀ r : ReadWord,
    (r.toNat < 2 ^ 15 → decode (.read r) = .legal (.readReg r.toNat)) ∧
    (r.toNat ≥ 2 ^ 15 → decode (.read r) = .legal (.readBuf (r.toNat - 2 ^ 15)))

/-- R72 to R76 and R85: the decoder reads back every well-formed instruction from its encoding, with every operand at
every value of its field. -/
def Obligations.DecodeOfEncodeIsIdentity : Prop :=
  ∀ i : Instr, i.wellFormed = true → decode (encode i) = .legal i

/-- R83, R80: a request that decodes to an instruction is that instruction's own encoding, and the instruction is well
formed; so no legal word has a bit that the instruction does not name. -/
def Obligations.LegalWordsAreEncodings : Prop :=
  ∀ (q : Request) (i : Instr), decode q = .legal i → i.wellFormed = true ∧ encode i = q

/-- R89's words, with one word of each remaining row, decode to the instructions they stand for. -/
def Obligations.WrittenOutWordsDecode : Prop :=
  decode (.command 0x0000000000000000#64) = .legal .nop ∧
  decode (.command 0x1000000100030003#64) = .legal (.config 3 3 .rowMajor false) ∧
  decode (.command 0x1000000200030003#64) = .legal (.config 3 3 .columnMajor true) ∧
  decode (.command 0x2000000000000001#64) = .legal (.profile 1) ∧
  decode (.command 0x3000000000000000#64) = .legal .start ∧
  decode (.command 0x4000000300020001#64) = .legal (.pixel 1 2 3) ∧
  decode (.command 0x5000000000000000#64) = .legal .clear ∧
  decode (.read 0x0000#16) = .legal (.readReg 0) ∧
  decode (.read 0x877F#16) = .legal (.readBuf 1919)

/-- R89: each line of the rule's table assembles to its word. -/
def Obligations.AssemblerExamplesAssemble : Prop :=
  assemble "CONFIG w=120, h=128".toList = .op (.request (.command 0x1000000000800078#64)) ∧
  assemble "CONFIG w=246, h=128".toList = .op (.request (.command 0x10000000008000F6#64)) ∧
  assemble "CONFIG w=3, h=3, trav=row".toList = .op (.request (.command 0x1000000100030003#64)) ∧
  assemble "CONFIG w=3, h=3, bypass=1".toList = .op (.request (.command 0x1000000200030003#64)) ∧
  assemble "PROFILE profile".toList = .op (.request (.command 0x2000000000000000#64)) ∧
  assemble "PROFILE splash".toList = .op (.request (.command 0x2000000000000001#64)) ∧
  assemble "PIXEL 32768, 32768, 32768".toList = .op (.request (.command 0x4000800080008000#64)) ∧
  assemble "PIXEL 1, 2, 3".toList = .op (.request (.command 0x4000000300020001#64)) ∧
  assemble "RDREG STATUS".toList = .op (.request (.read 0x0000#16)) ∧
  assemble "RDBUF 1919".toList = .op (.request (.read 0x877F#16))

/-! ### The step -/

/-- A step runs the decoded instruction: it is `exec` of it on the state with the operation taken from the queue
(20_memory.md, Ordering; 60_exceptions.md, Dispatch and priority). The queue is the model's (log 1). -/
def Obligations.StepRunsDecodedInstruction : Prop :=
  ∀ (s : State) (q : Request) (rest : List HostOp) (i : Instr),
    s.inbox = .request q :: rest → decode q = .legal i → step s = exec i { s with inbox := rest }

/-- With no operation of the host pending a step changes nothing (60_exceptions.md, Power states; log 1). -/
def Obligations.StepWithoutOperationWaits : Prop :=
  ∀ s : State, s.inbox = [] → step s = .next s

/-- The dispatch of R184 on whole words: in ERROR only the CLEAR word is performed; elsewhere E_OPC, then E_RSVD, then
the command. Derived: the rule's word on the priority inside a command is said by that command's own statement. -/
def Obligations.DispatchChecksInOrder : Prop :=
  ∀ (s : State) (w : CmdWord) (rest : List HostOp), s.inbox = .request (.command w) :: rest →
    let t : State := { s with inbox := rest }
    (s.mode = .error → w = 0x5000000000000000#64 → step s = .next { t with mode := .idle, errcode := 0 }) ∧
    (s.mode = .error → w ≠ 0x5000000000000000#64 → step s = .next t) ∧
    (s.mode ≠ .error → w.toNat / 2 ^ 60 ≥ 6 → step s = .next { t with mode := .error, errcode := 1 }) ∧
    (s.mode ≠ .error → w.toNat / 2 ^ 60 < 6 → w &&& reservedMask (w.toNat / 2 ^ 60) ≠ 0 →
      step s = .next { t with mode := .error, errcode := 2 }) ∧
    (s.mode ≠ .error → w.toNat / 2 ^ 60 < 6 → w &&& reservedMask (w.toNat / 2 ^ 60) = 0 →
      ∃ i, decode (.command w) = .legal i ∧ step s = exec i t)

/-- R186: in ERROR no command word but the legal CLEAR has an effect, reads are performed as in every other state, and
no run of words and reads without that CLEAR word leaves ERROR: STATE and ERRCODE stay. -/
def Obligations.ErrorStateIgnoresAllButClear : Prop :=
  (∀ (s : State) (w : CmdWord) (rest : List HostOp), s.mode = .error →
    s.inbox = .request (.command w) :: rest → w ≠ 0x5000000000000000#64 →
    step s = .next { s with inbox := rest }) ∧
  (∀ (s : State) (r : ReadWord) (rest : List HostOp), s.inbox = .request (.read r) :: rest →
    ∃ v : RegValue, step s = .next { s with inbox := rest, responses := s.responses ++ [v] } ∧
      v = if r.toNat < 2 ^ 15 then regValue r.toNat s else bufValue (r.toNat - 2 ^ 15) s) ∧
  (∀ (l : List Instr) (s : State), s.mode = .error → (∀ i ∈ l, i ≠ .clear) →
    ∃ rs : List RegValue, execAll l s = .next { s with responses := s.responses ++ rs })

/-! ### Reset -/

/-- Part of R210 (70_reset_and_hazards.md, Reset): the values it lists after reset, and what the registers then read. The
parameters are the defaults of 00_scope.md R6; BUF is a free draw per byte (log 4). -/
def Obligations.ResetStateHoldsListedValues : Prop :=
  let s := State.reset
  s.mode = .idle ∧ s.errcode = 0 ∧ s.cfgW = 0 ∧ s.cfgH = 0 ∧ s.trav = .columnMajor ∧ s.bypass = false ∧
  s.x = 0 ∧ s.y = 0 ∧ s.pixcount = 0 ∧ s.params.wMax = 246 ∧ s.params.hMax = 128 ∧
  (∀ n < 5, regValue n s = 0) ∧ regValue 5 s = 0x008000F6#32

/-- Part of R210: the reset input in any state sets the listed elements and leaves BUF a new free draw per byte. The
model's choices in it: that the presented request is discarded when it is a read request as when it is a command word,
where R189 speaks of a command word alone (log 9); that the parameters are a field that stays (log 3); the queue, the
responses and the number of the draw (logs 1, 2, 4); and that a second reset changes nothing but that draw, which rests
on reading "idempotent" so (log 10) and, for the line buffer, which the rule leaves unspecified, on its holding 0 after
each reset (log 5). -/
def Obligations.ResetInputReinitialises : Prop :=
  ∀ (s : State) (presented : Option Request) (rest : List HostOp), s.inbox = .reset presented :: rest →
    ∃ t, step s = .next t ∧
      t.mode = .idle ∧ t.errcode = 0 ∧ t.cfgW = 0 ∧ t.cfgH = 0 ∧ t.trav = .columnMajor ∧ t.bypass = false ∧
      t.x = 0 ∧ t.y = 0 ∧ t.pixcount = 0 ∧ t.params = s.params ∧
      (∀ a, memRead a t = Config.freeByte (s.resets + 1) a) ∧
      t.inbox = rest ∧ t.responses = s.responses ∧ t.resets = s.resets + 1 ∧
      ∀ p rest', rest = .reset p :: rest' →
        step t = .next { t with inbox := rest', resets := s.resets + 2,
                                buf := { fill := .unspecified (s.resets + 2), cells := [] } }

/-! ### Control commands -/

/-- R100: the all-zero word is NOP, a NOP with a reserved bit set is E_RSVD, and NOP changes nothing, in ERROR (where
it is ignored) as elsewhere. -/
def Obligations.NopHasNoEffect : Prop :=
  decode (.command 0#64) = .legal .nop ∧
  (∀ w : CmdWord, w.toNat / 2 ^ 60 = 0 → w ≠ 0 → decode (.command w) = .illegal .eRsvd) ∧
  ∀ s : State, exec .nop s = .next s

/-- R102: CONFIG is E_BUSY in RUN, then E_DIMS, and otherwise writes the four configuration elements and STATE and
nothing else; BUFLEN then reads the new length. In ERROR it is ignored. -/
def Obligations.ConfigSetsConfiguration : Prop :=
  ∀ (w h : Nat) (trav : Traversal) (bypass : Bool), (Instr.config w h trav bypass).wellFormed = true →
    decode (.command (BitVec.ofNat 64 (0x1 * 2 ^ 60 + (if bypass then 2 ^ 33 else 0) +
      (if trav = .rowMajor then 2 ^ 32 else 0) + h * 2 ^ 16 + w))) = .legal (.config w h trav bypass) ∧
    ∀ s : State,
      (s.mode = .error → exec (.config w h trav bypass) s = .next s) ∧
      (s.mode = .run → exec (.config w h trav bypass) s = .next { s with mode := .error, errcode := 3 }) ∧
      (s.mode = .idle ∨ s.mode = .done → w = 0 ∨ h = 0 ∨ w > s.params.wMax ∨ h > s.params.hMax →
        exec (.config w h trav bypass) s = .next { s with mode := .error, errcode := 5 }) ∧
      (s.mode = .idle ∨ s.mode = .done → 1 ≤ w → w ≤ s.params.wMax → 1 ≤ h → h ≤ s.params.hMax →
        ∃ t, exec (.config w h trav bypass) s = .next t ∧
          t = { s with cfgW := BitVec.ofNat 9 w, cfgH := BitVec.ofNat 9 h, trav := trav, bypass := bypass,
                       mode := .idle } ∧
          t.cfgW.toNat = w ∧ t.cfgH.toNat = h ∧ regValue 4 t = BitVec.ofNat 32 ((w * h + 7) / 8))

/-- R104: PROFILE is E_BUSY in RUN, then E_SEL, then E_DIMS, and otherwise selects 120×128 or 246×128, column-major,
dithering on, writing nothing else. In ERROR it is ignored. -/
def Obligations.ProfileSelectsFixedTarget : Prop :=
  ∀ sel : Nat, (Instr.profile sel).wellFormed = true →
    decode (.command (BitVec.ofNat 64 (0x2 * 2 ^ 60 + sel))) = .legal (.profile sel) ∧
    ∀ s : State,
      let w := if sel = 0 then 120 else 246
      (s.mode = .error → exec (.profile sel) s = .next s) ∧
      (s.mode = .run → exec (.profile sel) s = .next { s with mode := .error, errcode := 3 }) ∧
      (s.mode = .idle ∨ s.mode = .done → sel ≥ 2 →
        exec (.profile sel) s = .next { s with mode := .error, errcode := 6 }) ∧
      (s.mode = .idle ∨ s.mode = .done → sel < 2 → w > s.params.wMax ∨ 128 > s.params.hMax →
        exec (.profile sel) s = .next { s with mode := .error, errcode := 5 }) ∧
      (s.mode = .idle ∨ s.mode = .done → sel < 2 → w ≤ s.params.wMax → 128 ≤ s.params.hMax →
        ∃ t, exec (.profile sel) s = .next t ∧
          t = { s with cfgW := BitVec.ofNat 9 w, cfgH := 128, trav := .columnMajor, bypass := false, mode := .idle } ∧
          regValue 4 t = if sel = 0 then 1920 else 3936)

/-- R106: START is E_BUSY in RUN, then E_NOCFG, and otherwise clears every BUF byte, both rows of the line buffer, the
position and the counter, and enters RUN; everything else is unchanged. In ERROR it is ignored. -/
def Obligations.StartBeginsFrame : Prop :=
  decode (.command 0x3000000000000000#64) = .legal .start ∧
  ∀ s : State,
    (s.mode = .error → exec .start s = .next s) ∧
    (s.mode = .run → exec .start s = .next { s with mode := .error, errcode := 3 }) ∧
    (s.mode = .idle ∨ s.mode = .done → s.cfgW = 0 ∨ s.cfgH = 0 →
      exec .start s = .next { s with mode := .error, errcode := 7 }) ∧
    (s.mode = .idle ∨ s.mode = .done → s.cfgW ≠ 0 → s.cfgH ≠ 0 →
      ∃ t, exec .start s = .next t ∧ (∀ a, memRead a t = 0) ∧
        (∀ i, rowAt t.errCur i = Rgb.all 0 ∧ rowAt t.errNxt i = Rgb.all 0) ∧
        t.errCur.length = s.params.wMax ∧ t.errNxt.length = s.params.wMax ∧
        t = { s with buf := t.buf, errCur := t.errCur, errNxt := t.errNxt,
                     x := 0, y := 0, pixcount := 0, mode := .run })

/-- R108: CLEAR leaves ERROR for IDLE with ERRCODE 0 and changes nothing else; outside ERROR it has no effect; with a
reserved bit set it is no CLEAR. -/
def Obligations.ClearLeavesErrorOnly : Prop :=
  decode (.command 0x5000000000000000#64) = .legal .clear ∧
  (∀ w : CmdWord, w.toNat / 2 ^ 60 = 5 → w ≠ 0x5000000000000000#64 → decode (.command w) = .illegal .eRsvd) ∧
  ∀ s : State,
    (s.mode = .error → exec .clear s = .next { s with mode := .idle, errcode := 0 }) ∧
    (s.mode ≠ .error → exec .clear s = .next s)

/-! ### PIXEL -/

/-- Part of R120: PIXEL in IDLE or DONE is E_NOTRUN with no other effect, in ERROR it is ignored. -/
def Obligations.PixelOutsideRunIsRefusedByError : Prop :=
  ∀ (s : State) (r g b : Nat),
    (s.mode = .idle ∨ s.mode = .done → exec (.pixel r g b) s = .next { s with mode := .error, errcode := 4 }) ∧
    (s.mode = .error → exec (.pixel r g b) s = .next s)

/-- R152, for the bit that R120 gives it: PIXEL in RUN completes; it ORs its bit into byte `k div 8` at weight
`2^(7 - k mod 8)`, where `k` is the position's bit index and the bit is the dithered or the classified one; that byte
is inside the Bit Buffer; no other byte of BUF changes, nor does the configuration. -/
def Obligations.PixelPacksItsBit : Prop :=
  ∀ (s : State) (r g b : Nat), s.Inv → s.mode = .run →
    let e := rowAt s.errCur s.x.toNat
    let v := fun (i : Nat) (c : Int) => max 0 (min 65535 ((i : Int) + c.tdiv 16))
    let bit : Bool :=
      if s.bypass = true then decide (r + g + b = 0) else decide (v r e.r + v g e.g + v b e.b ≤ 98302)
    let k := if s.trav = .columnMajor then s.x.toNat * s.cfgH.toNat + s.y.toNat
      else s.y.toNat * s.cfgW.toNat + s.x.toNat
    k / 8 < (s.cfgW.toNat * s.cfgH.toNat + 7) / 8 ∧
    (s.cfgW.toNat * s.cfgH.toNat + 7) / 8 ≤ (s.params.wMax * s.params.hMax + 7) / 8 ∧
    ∃ t, exec (.pixel r g b) s = .next t ∧
      (∀ a, memRead a t =
        if a = k / 8 then memRead a s ||| BitVec.ofNat 8 (if bit then 2 ^ (7 - k % 8) else 0) else memRead a s) ∧
      t.params = s.params ∧ t.errcode = s.errcode ∧ t.cfgW = s.cfgW ∧ t.cfgH = s.cfgH ∧ t.trav = s.trav ∧
      t.bypass = s.bypass ∧ t.resets = s.resets ∧ t.inbox = s.inbox ∧ t.responses = s.responses

/-- Part of R153, from R52: in a frame the bit of PIXEL's position was 0, PIXEL makes it the pixel's bit, and every other bit
index keeps its value. -/
def Obligations.PixelDecidesExactlyOneBit : Prop :=
  ∀ (s : State) (r g b : Nat), s.Inv → s.OnlySuppliedBits → s.mode = .run →
    let k := bitIndex s.trav s.cfgW.toNat s.cfgH.toNat s.x.toNat s.y.toNat
    bitOf k s = false ∧
    ∃ (t : State) (bit : Bool), exec (.pixel r g b) s = .next t ∧
      (s.bypass = true → bit = classify ⟨r, g, b⟩) ∧
      (s.bypass = false → bit = colourBit (nearest (adjusted ⟨r, g, b⟩ (rowAt s.errCur s.x.toNat)))) ∧
      bitOf k t = bit ∧ ∀ k', k' ≠ k → bitOf k' t = bitOf k' s

/-- R127, with R129's move of the rows: with dithering on, PIXEL in RUN adds 7 times its error to the right, and 3, 5 and 1 times to the
row below, where the targets are inside the frame, with no overflow of an entry; at the end of a row the rows move up
and the lower one is 0. -/
def Obligations.PixelDiffusesItsError : Prop :=
  ∀ (s : State) (r g b : Nat), s.Inv → s.LineBounded → s.mode = .run → s.bypass = false →
    let e := rowAt s.errCur s.x.toNat
    let v := fun (i : Nat) (c : Int) => max 0 (min 65535 ((i : Int) + c.tdiv 16))
    let p : Int := if v r e.r + v g e.g + v b e.b ≤ 98302 then 0 else 65535
    let q : Rgb Int := ⟨v r e.r - p, v g e.g - p, v b e.b - p⟩
    let below := fun i => if s.y.toNat + 1 < s.cfgH.toNat
      then plusShare (rowAt s.errNxt i) (belowWeight s.cfgW.toNat s.x.toNat i) q else rowAt s.errNxt i
    ∃ t, exec (.pixel r g b) s = .next t ∧
      (s.x.toNat + 1 < s.cfgW.toNat → ∀ i,
        rowAt t.errCur i = plusShare (rowAt s.errCur i) (if i = s.x.toNat + 1 then 7 else 0) q ∧
        rowAt t.errNxt i = below i) ∧
      (s.x.toNat + 1 = s.cfgW.toNat → ∀ i, rowAt t.errCur i = below i ∧ rowAt t.errNxt i = Rgb.all 0)

/-- Part of R131 and R129: in bypass PIXEL leaves the line buffer as it is within a row; at the end of a row the rows
move up. -/
def Obligations.BypassPixelLeavesLineBuffer : Prop :=
  ∀ (s : State) (r g b : Nat), s.Inv → s.mode = .run → s.bypass = true →
    ∃ t, exec (.pixel r g b) s = .next t ∧
      (s.x.toNat + 1 < s.cfgW.toNat → t.errCur = s.errCur ∧ t.errNxt = s.errNxt) ∧
      (s.x.toNat + 1 = s.cfgW.toNat → t.errCur = s.errNxt ∧ ∀ i, rowAt t.errNxt i = Rgb.all 0)

/-- Part of R26 and of R129: PIXEL in RUN counts itself and advances in raster order; after the last pixel of the frame
the position is (0, CFG_H) and STATE is DONE. -/
def Obligations.PixelAdvancesInRasterOrder : Prop :=
  ∀ (s : State) (r g b : Nat), s.Inv → s.mode = .run →
    ∃ t, exec (.pixel r g b) s = .next t ∧ t.pixcount.toNat = s.pixcount.toNat + 1 ∧
      (s.x.toNat + 1 < s.cfgW.toNat → t.x.toNat = s.x.toNat + 1 ∧ t.y = s.y ∧ t.mode = .run) ∧
      (s.x.toNat + 1 = s.cfgW.toNat → t.x = 0 ∧ t.y.toNat = s.y.toNat + 1 ∧
        t.mode = if s.y.toNat + 1 = s.cfgH.toNat then .done else .run)

/-- Part of R121: from a configured state in IDLE or DONE, once START and `n` pixels short of a frame are performed,
the pixel that PIXEL takes next is the one at column `n mod W`, row `n div W`. -/
def Obligations.NextPixelIsTheNthOfTheRaster : Prop :=
  ∀ (s : State) (ps : List (Rgb Nat)), s.Inv → s.mode = .idle ∨ s.mode = .done → s.cfgW ≠ 0 → s.cfgH ≠ 0 →
    ps.length < s.cfgW.toNat * s.cfgH.toNat →
    ∃ t, execAll (.start :: pixels ps) s = .next t ∧ t.mode = .run ∧
      t.x.toNat = ps.length % s.cfgW.toNat ∧ t.y.toNat = ps.length / s.cfgW.toNat

/-! ### Reads -/

/-- R170: READ_REG returns the register of R33's layout, 0 for a reserved number, in every STATE, and changes nothing;
after reset STATUS and BUFLEN read 0. -/
def Obligations.ReadRegReturnsRegister : Prop :=
  (∀ n : Nat, n < 2 ^ 15 → decode (.read (BitVec.ofNat 16 n)) = .legal (.readReg n)) ∧
  (∀ (s : State) (n : Nat), exec (.readReg n) s = .next { s with responses := s.responses ++ [regValue n s] }) ∧
  (∀ s : State,
    (regValue 0 s).toNat = (modeBits s.mode).toNat + s.errcode.toNat * 2 ^ 4 ∧
    (modeBits .idle = 0 ∧ modeBits .run = 1 ∧ modeBits .done = 2 ∧ modeBits .error = 3) ∧
    (regValue 1 s).toNat = s.cfgW.toNat + s.cfgH.toNat * 2 ^ 16 + (if s.trav = .rowMajor then 2 ^ 28 else 0) +
      (if s.bypass then 2 ^ 29 else 0) ∧
    (regValue 2 s).toNat = s.x.toNat + s.y.toNat * 2 ^ 16 ∧
    (regValue 3 s).toNat = s.pixcount.toNat ∧
    (regValue 4 s).toNat = (s.cfgW.toNat * s.cfgH.toNat + 7) / 8 ∧
    (s.params.legal → (regValue 5 s).toNat = s.params.wMax + s.params.hMax * 2 ^ 16) ∧
    ∀ n, n ≥ 6 → regValue n s = 0) ∧
  regValue 0 State.reset = 0 ∧ regValue 4 State.reset = 0 ∧
  (∀ s t : State, exec (.profile 0) s = .next t → t.mode = .idle → s.mode ≠ .error →
    regValue 1 t = 0x00800078#32 ∧ regValue 4 t = 1920)

/-- Part of R172: READ_BUF returns the byte zero-extended, 0 at or above BUF_BYTES, in every STATE, and changes
nothing. -/
def Obligations.ReadBufReturnsByte : Prop :=
  (∀ a : Nat, a < 2 ^ 15 → decode (.read (BitVec.ofNat 16 (0x8000 + a))) = .legal (.readBuf a)) ∧
  ∀ (s : State) (a : Nat),
    ∃ v : RegValue, exec (.readBuf a) s = .next { s with responses := s.responses ++ [v] } ∧
      (a < (s.params.wMax * s.params.hMax + 7) / 8 → v.toNat = (memRead a s).toNat) ∧
      (a ≥ (s.params.wMax * s.params.hMax + 7) / 8 → v = 0)

/-- Part of R58: two reads with no command between them return the same value. -/
def Obligations.ReadsRepeat : Prop :=
  ∀ (s : State) (i : Instr), (∃ n, i = .readReg n) ∨ (∃ a, i = .readBuf a) →
    ∃ v : RegValue, execAll [i, i] s = .next { s with responses := s.responses ++ [v, v] }

/-! ### Numerics and packing -/

/-- R124: in each lane the input plus the accumulated numerator's sixteenth, truncated toward zero, clamped to
0..65535; and the rule's three examples. -/
def Obligations.AdjustedValueTruncatesAndClamps : Prop :=
  (∀ (p : Rgb Nat) (e : Rgb Int),
    let v := fun (i : Nat) (c : Int) => max 0 (min 65535 ((i : Int) + c.tdiv 16))
    adjusted p e = ⟨v p.r e.r, v p.g e.g, v p.b e.b⟩ ∧
    (0 ≤ v p.r e.r ∧ v p.r e.r ≤ 65535) ∧ (0 ≤ v p.g e.g ∧ v p.g e.g ≤ 65535) ∧
    (0 ≤ v p.b e.b ∧ v p.b e.b ≤ 65535)) ∧
  (∀ (p : Rgb Nat) (s : State),
    (dither p s).1 = colourBit (nearest (adjusted p (rowAt s.errCur s.x.toNat)))) ∧
  adjusted ⟨100, 100, 65000⟩ ⟨-17, -15, 16000⟩ = ⟨99, 100, 65535⟩

/-- R125: the nearer of Black and White by squared distance, which is Black exactly when the sum of the channels is at
most 98302; no tie occurs. -/
def Obligations.NearestIsBlackUpToHalf : Prop :=
  ∀ v : Rgb Int,
    let dB := v.r ^ 2 + v.g ^ 2 + v.b ^ 2
    let dW := (65535 - v.r) ^ 2 + (65535 - v.g) ^ 2 + (65535 - v.b) ^ 2
    (nearest v = .black ↔ dB ≤ dW) ∧ (nearest v = .white ↔ dB > dW) ∧ dB ≠ dW ∧
    (nearest v = .black ↔ v.r + v.g + v.b ≤ 98302) ∧
    nearest ⟨32767, 32767, 32768⟩ = .black ∧ nearest ⟨32767, 32768, 32768⟩ = .white

/-- R126: the quantisation error is the error-adjusted value less the chosen colour, in -65535..65535; it is the value
itself for Black and the value less 65535 for White. -/
def Obligations.QuantisationErrorIsBounded : Prop :=
  ∀ (p : Rgb Nat) (e : Rgb Int),
    let v := adjusted p e
    let q := quantError v (nearest v)
    (nearest v = .black → q = v ∧ 0 ≤ q.r ∧ 0 ≤ q.g ∧ 0 ≤ q.b) ∧
    (nearest v = .white → q = ⟨v.r - 65535, v.g - 65535, v.b - 65535⟩ ∧ q.r ≤ 0 ∧ q.g ≤ 0 ∧ q.b ≤ 0) ∧
    entryWithin 65535 q

/-- R128: the bit is 1 for Black and 0 for White, which is the test that the chosen colour's channels sum to zero. -/
def Obligations.OutputBitIsBlack : Prop :=
  ∀ c : Colour,
    (colourBit c = true ↔ c = .black) ∧ (colourBit c = false ↔ c = .white) ∧
    (colourBit c = true ↔ colourLevel c + colourLevel c + colourLevel c = 0) ∧
    (colourLevel .black = 0 ∧ colourLevel .white = 65535)

/-- Part of R131: classification is the sum test; with no error accumulated it agrees with dithering on a palette
colour, and not on (1, 0, 0). -/
def Obligations.ClassifyAgreesOnPalette : Prop :=
  (∀ p : Rgb Nat, classify p = true ↔ p.r + p.g + p.b = 0) ∧
  (∀ p : Rgb Nat, p = Rgb.all 0 ∨ p = Rgb.all 65535 →
    classify p = colourBit (nearest (adjusted p (Rgb.all 0)))) ∧
  classify ⟨1, 0, 0⟩ = false ∧ colourBit (nearest (adjusted ⟨1, 0, 0⟩ (Rgb.all 0))) = true ∧
  classify ⟨0, 0, 1⟩ = false

/-- R150: the two index formulas; both are bijections from the W×H pixels onto [0, W*H), with the rule's inverses. -/
def Obligations.BitIndexIsBijective : Prop :=
  ∀ w h x y : Nat, x < w → y < h →
    bitIndex .columnMajor w h x y = x * h + y ∧ bitIndex .rowMajor w h x y = y * w + x ∧
    (∀ trav, bitIndex trav w h x y < w * h) ∧
    (let k := bitIndex .columnMajor w h x y; k / h = x ∧ k % h = y) ∧
    (let k := bitIndex .rowMajor w h x y; k % w = x ∧ k / w = y) ∧
    (∀ trav, ∀ k < w * h, ∃ x' y', x' < w ∧ y' < h ∧ bitIndex trav w h x' y' = k) ∧
    (∀ trav x' y', x' < w → y' < h → bitIndex trav w h x' y' = bitIndex trav w h x y → x' = x ∧ y' = y)

/-- R159: the pairs of the rule's table for the profile target, with their bytes and weights, and its row-major
pairs. -/
def Obligations.IndexExamplesOfProfileTarget : Prop :=
  let at' := fun x y => let k := bitIndex .columnMajor 120 128 x y; (k, k / 8, setBit 0 k true)
  let row := fun x y => let k := bitIndex .rowMajor 120 128 x y; (k, k / 8, setBit 0 k true)
  at' 0 0 = (0, 0, 0x80#8) ∧ at' 0 1 = (1, 0, 0x40#8) ∧ at' 0 7 = (7, 0, 0x01#8) ∧ at' 0 8 = (8, 1, 0x80#8) ∧
  at' 0 127 = (127, 15, 0x01#8) ∧ at' 1 0 = (128, 16, 0x80#8) ∧ at' 1 5 = (133, 16, 0x04#8) ∧
  at' 119 0 = (15232, 1904, 0x80#8) ∧ at' 119 127 = (15359, 1919, 0x01#8) ∧
  row 0 1 = (120, 15, 0x80#8) ∧ row 1 0 = (1, 0, 0x40#8) ∧ row 119 127 = (15359, 1919, 0x01#8)

/-- R157: the Bit Buffer is `ceil(W*H/8)` bytes: 1920 for 120×128, 3936 for 246×128, neither with padding, and 2 with 7
padding bits for 3×3. -/
def Obligations.BitBufferLengthIsCeiling : Prop :=
  (∀ s : State, let n := s.cfgW.toNat * s.cfgH.toNat
    8 * bufLen s ≥ n ∧ 8 * bufLen s < n + 8 ∧ regValue 4 s = BitVec.ofNat 32 (bufLen s)) ∧
  ∀ s : State,
    (s.cfgW = 120 → s.cfgH = 128 → bufLen s = 1920 ∧ 8 * bufLen s - 120 * 128 = 0) ∧
    (s.cfgW = 246 → s.cfgH = 128 → bufLen s = 3936 ∧ 8 * bufLen s - 246 * 128 = 0) ∧
    (s.cfgW = 3 → s.cfgH = 3 → bufLen s = 2 ∧ 8 * bufLen s - 3 * 3 = 7)

/-- R171: the STATUS values a host sees in a state with the invariant. -/
def Obligations.StatusValuesOfEachMode : Prop :=
  ∀ s : State, s.Inv →
    (s.mode = .idle → regValue 0 s = 0x00) ∧ (s.mode = .run → regValue 0 s = 0x01) ∧
    (s.mode = .done → regValue 0 s = 0x02) ∧
    (s.mode = .error → ∃ code, 1 ≤ code ∧ code ≤ 7 ∧ s.errcode.toNat = code ∧
      (regValue 0 s).toNat = 0x03 ||| (code <<< 4))

/-! ### Invariants -/

/-- The invariants hold at reset. -/
def Obligations.ResetMeetsInvariants : Prop :=
  State.reset.Inv ∧ State.reset.LineBounded ∧ State.reset.OnlySuppliedBits

/-- Every step keeps the ranges of R23 to R28, R30 and R32 (`State.Inv`), from every state that has them. Its clauses on
the canonical form of BUF and on the number of its free draw are the model's choices (logs 6 and 4). -/
def Obligations.StepKeepsInvariant : Prop :=
  ∀ s t : State, s.Inv → step s = .next t → t.Inv

/-- No operation of the host stops the machine: from a state with the invariant every step answers a next state
(00_scope.md R9: each command's pseudocode runs to completion). -/
def Obligations.NoStepStops : Prop :=
  ∀ s : State, s.Inv → ∃ t, step s = .next t

/-- Part of R30, and R137's bound: every step keeps every line-buffer entry within the weights it can have received, so no
21-bit entry overflows; the line buffer is 0 at DONE. Its reset case, the bounds after reset, holds by the model's
choice of 0 for the line buffer there, which R211 leaves unspecified (log 5). -/
def Obligations.StepKeepsLineBufferBounded : Prop :=
  ∀ s t : State, s.Inv → s.LineBounded → step s = .next t → t.LineBounded

/-- Part of R52 and of R221: every step keeps it that in a frame only bits of pixels already supplied are 1; so padding bits and
bytes beyond the Bit Buffer are 0. -/
def Obligations.StepKeepsOnlySuppliedBits : Prop :=
  ∀ s t : State, s.Inv → s.OnlySuppliedBits → step s = .next t → t.OnlySuppliedBits

/-- Part of R6 and of R20: no step changes the parameters (the field that holds them is the model's, log 3). -/
def Obligations.StepKeepsParameters : Prop :=
  ∀ s t : State, step s = .next t → t.params = s.params

/-- Part of R22: STATE changes only by the events of the rule's table. -/
def Obligations.ModeChangesOnlyByTable : Prop :=
  ∀ s t : State, step s = .next t → t.mode ≠ s.mode →
    (nextIsReset s = true ∧ t.mode = .idle) ∨
    (s.mode = .done ∧ t.mode = .idle ∧
      ((∃ w h trav bypass, nextInstr s = some (.config w h trav bypass)) ∨ ∃ sel, nextInstr s = some (.profile sel))) ∨
    ((s.mode = .idle ∨ s.mode = .done) ∧ t.mode = .run ∧ nextInstr s = some .start) ∨
    (s.mode = .run ∧ t.mode = .done ∧ (∃ r g b, nextInstr s = some (.pixel r g b))) ∨
    (s.mode ≠ .error ∧ t.mode = .error ∧ t.errcode ≠ 0) ∨
    (s.mode = .error ∧ t.mode = .idle ∧ nextInstr s = some .clear)

/-- R28: in RUN the position is inside the frame, and no operation but reset changes the configuration; CONFIG and
PROFILE are E_BUSY there. -/
def Obligations.ConfigurationFrozenInRun : Prop :=
  ∀ s : State, s.Inv → s.mode = .run →
    s.x.toNat < s.cfgW.toNat ∧ s.y.toNat < s.cfgH.toNat ∧
    (∀ t, nextIsReset s = false → step s = .next t →
      t.cfgW = s.cfgW ∧ t.cfgH = s.cfgH ∧ t.trav = s.trav ∧ t.bypass = s.bypass) ∧
    (∀ w h trav bypass, exec (.config w h trav bypass) s = .next { s with mode := .error, errcode := 3 }) ∧
    (∀ sel, exec (.profile sel) s = .next { s with mode := .error, errcode := 3 })

/-- Part of R185: an error changes STATE and ERRCODE and nothing else (the operation is taken from the model's queue); it is
one of the codes 1 to 7. -/
def Obligations.ErrorsArePrecise : Prop :=
  ∀ s t : State, step s = .next t → s.mode ≠ .error → t.mode = .error →
    ∃ op rest, s.inbox = op :: rest ∧ t = { s with mode := .error, errcode := t.errcode, inbox := rest } ∧
      1 ≤ t.errcode.toNat ∧ t.errcode.toNat ≤ 7

/-- Part of R23 and of R187: ERRCODE is 0 outside ERROR; in ERROR the first code is kept; ERROR is left only by CLEAR or reset. -/
def Obligations.FirstErrorIsKept : Prop :=
  ∀ s t : State, s.Inv → step s = .next t →
    (t.mode ≠ .error → t.errcode = 0) ∧
    (s.mode = .error → t.mode = .error → t.errcode = s.errcode) ∧
    (s.mode = .error → t.mode ≠ .error → t.mode = .idle ∧ (nextIsReset s = true ∨ nextInstr s = some .clear))

/-- Part of R32, and R155's last sentences: BUF is changed only by an accepted PIXEL, an accepted START, and reset; so in
DONE only by START and reset. -/
def Obligations.BufChangesOnlyByPixelStartReset : Prop :=
  ∀ s t : State, step s = .next t → t.buf ≠ s.buf →
    nextIsReset s = true ∨
    (nextInstr s = some .start ∧ (s.mode = .idle ∨ s.mode = .done) ∧ t.mode = .run ∧ ∀ a, memRead a t = 0) ∨
    (s.mode = .run ∧ ∃ r g b, nextInstr s = some (.pixel r g b))

/-! ### Frames -/

/-- R156: from every configured state outside RUN and ERROR, START and W*H pixels end in DONE at (0, CFG_H) with
PIXCOUNT = W*H, and fewer pixels leave it in RUN. -/
def Obligations.FrameCompletesAtLastPixel : Prop :=
  ∀ (s : State) (ps : List (Rgb Nat)), s.Inv → s.mode = .idle ∨ s.mode = .done → s.cfgW ≠ 0 → s.cfgH ≠ 0 →
    (ps.length = s.cfgW.toNat * s.cfgH.toNat →
      ∃ t, execAll (.start :: pixels ps) s = .next t ∧ t.mode = .done ∧ t.x = 0 ∧ t.y = s.cfgH ∧
        t.pixcount.toNat = s.cfgW.toNat * s.cfgH.toNat) ∧
    (ps.length < s.cfgW.toNat * s.cfgH.toNat →
      ∃ t, execAll (.start :: pixels ps) s = .next t ∧ t.mode = .run ∧ t.pixcount.toNat = ps.length)

/-- R137: when a pixel is dithered, ERR_CUR[X] is the weighted sum of the errors of its left neighbour and of the three
pixels above it, over the whole canvas's history, and is at most 1048560 in absolute value. -/
def Obligations.LineBufferHoldsKernelSum : Prop :=
  ∀ (s : State) (ps : List (Rgb Nat)), s.Inv → s.mode = .idle ∨ s.mode = .done → s.cfgW ≠ 0 → s.cfgH ≠ 0 →
    s.bypass = false → ps.length < s.cfgW.toNat * s.cfgH.toNat →
    ∃ t, execAll (.start :: pixels ps) s = .next t ∧
      rowAt t.errCur t.x.toNat = accumulated s.cfgW.toNat (canvasErrors s.cfgW.toNat [] ps) ∧
      entryWithin 1048560 (rowAt t.errCur t.x.toNat)

/-- R155: at DONE bit `idx(x, y)` is the bit of pixel (x, y), as the canvas description gives it (dithered or
classified), every bit from W*H up, padding and the bytes beyond, is 0, and no sequence of instructions without a START
changes BUF. -/
def Obligations.FrameContentIsTheDitheredCanvas : Prop :=
  ∀ (s : State) (ps : List (Rgb Nat)), s.Inv → s.mode = .idle ∨ s.mode = .done → s.cfgW ≠ 0 → s.cfgH ≠ 0 →
    ps.length = s.cfgW.toNat * s.cfgH.toNat →
    ∃ t, execAll (.start :: pixels ps) s = .next t ∧ t.mode = .done ∧
      (∀ x y, x < s.cfgW.toNat → y < s.cfgH.toNat →
        bitOf (bitIndex s.trav s.cfgW.toNat s.cfgH.toNat x y) t =
          (frameBits s.bypass s.cfgW.toNat ps).getD (y * s.cfgW.toNat + x) false) ∧
      (∀ k, k ≥ s.cfgW.toNat * s.cfgH.toNat → bitOf k t = false) ∧
      ∀ (l : List Instr) (u : State), (∀ i ∈ l, i ≠ .start) → execAll l t = .next u → u.buf = t.buf

/-- R136: for a fixed configuration the Bit Buffer at DONE is a function of the pixel values alone: not of NOPs or
reads between the pixels, nor of anything before the START. -/
def Obligations.FrameIsFunctionOfPixels : Prop :=
  ∀ (s s' : State) (l l' : List Instr), s.Inv → s'.Inv →
    s.mode = .idle ∨ s.mode = .done → s'.mode = .idle ∨ s'.mode = .done →
    s.cfgW = s'.cfgW → s.cfgH = s'.cfgH → s.trav = s'.trav → s.bypass = s'.bypass → s.cfgW ≠ 0 → s.cfgH ≠ 0 →
    (∀ i ∈ l, frameInstr i = true) → (∀ i ∈ l', frameInstr i = true) → pixelsOf l = pixelsOf l' →
    (pixelsOf l).length = s.cfgW.toNat * s.cfgH.toNat →
    ∃ t t', execAll (.start :: l) s = .next t ∧ execAll (.start :: l') s' = .next t' ∧
      t.mode = .done ∧ t'.mode = .done ∧ ∀ a < bufLen t, memRead a t = memRead a t'
end

