-- ==== Sys2Proof/Laws/State.lean ====
section
/-! SUPPORT. One lemma per field per named update of the state, true by definition. -/

namespace Sys2Proof.Machine

/-! ### raiseError -/

@[simp] theorem raiseError_params (c : ErrCode) (s : State) :
    (raiseError c s).params = s.params := rfl
@[simp] theorem raiseError_mode (c : ErrCode) (s : State) :
    (raiseError c s).mode = .error := rfl
@[simp] theorem raiseError_errcode (c : ErrCode) (s : State) :
    (raiseError c s).errcode = errBits c := rfl
@[simp] theorem raiseError_cfgW (c : ErrCode) (s : State) :
    (raiseError c s).cfgW = s.cfgW := rfl
@[simp] theorem raiseError_cfgH (c : ErrCode) (s : State) :
    (raiseError c s).cfgH = s.cfgH := rfl
@[simp] theorem raiseError_trav (c : ErrCode) (s : State) :
    (raiseError c s).trav = s.trav := rfl
@[simp] theorem raiseError_bypass (c : ErrCode) (s : State) :
    (raiseError c s).bypass = s.bypass := rfl
@[simp] theorem raiseError_x (c : ErrCode) (s : State) :
    (raiseError c s).x = s.x := rfl
@[simp] theorem raiseError_y (c : ErrCode) (s : State) :
    (raiseError c s).y = s.y := rfl
@[simp] theorem raiseError_pixcount (c : ErrCode) (s : State) :
    (raiseError c s).pixcount = s.pixcount := rfl
@[simp] theorem raiseError_errCur (c : ErrCode) (s : State) :
    (raiseError c s).errCur = s.errCur := rfl
@[simp] theorem raiseError_errNxt (c : ErrCode) (s : State) :
    (raiseError c s).errNxt = s.errNxt := rfl
@[simp] theorem raiseError_buf (c : ErrCode) (s : State) :
    (raiseError c s).buf = s.buf := rfl
@[simp] theorem raiseError_resets (c : ErrCode) (s : State) :
    (raiseError c s).resets = s.resets := rfl
@[simp] theorem raiseError_inbox (c : ErrCode) (s : State) :
    (raiseError c s).inbox = s.inbox := rfl
@[simp] theorem raiseError_responses (c : ErrCode) (s : State) :
    (raiseError c s).responses = s.responses := rfl

/-! ### clearError -/

@[simp] theorem clearError_params (s : State) :
    (clearError s).params = s.params := rfl
@[simp] theorem clearError_mode (s : State) :
    (clearError s).mode = .idle := rfl
@[simp] theorem clearError_errcode (s : State) :
    (clearError s).errcode = 0 := rfl
@[simp] theorem clearError_cfgW (s : State) :
    (clearError s).cfgW = s.cfgW := rfl
@[simp] theorem clearError_cfgH (s : State) :
    (clearError s).cfgH = s.cfgH := rfl
@[simp] theorem clearError_trav (s : State) :
    (clearError s).trav = s.trav := rfl
@[simp] theorem clearError_bypass (s : State) :
    (clearError s).bypass = s.bypass := rfl
@[simp] theorem clearError_x (s : State) :
    (clearError s).x = s.x := rfl
@[simp] theorem clearError_y (s : State) :
    (clearError s).y = s.y := rfl
@[simp] theorem clearError_pixcount (s : State) :
    (clearError s).pixcount = s.pixcount := rfl
@[simp] theorem clearError_errCur (s : State) :
    (clearError s).errCur = s.errCur := rfl
@[simp] theorem clearError_errNxt (s : State) :
    (clearError s).errNxt = s.errNxt := rfl
@[simp] theorem clearError_buf (s : State) :
    (clearError s).buf = s.buf := rfl
@[simp] theorem clearError_resets (s : State) :
    (clearError s).resets = s.resets := rfl
@[simp] theorem clearError_inbox (s : State) :
    (clearError s).inbox = s.inbox := rfl
@[simp] theorem clearError_responses (s : State) :
    (clearError s).responses = s.responses := rfl

/-! ### applyConfig -/

@[simp] theorem applyConfig_params (w h : Nat) (trav : Traversal) (bypass : Bool) (s : State) :
    (applyConfig w h trav bypass s).params = s.params := rfl
@[simp] theorem applyConfig_mode (w h : Nat) (trav : Traversal) (bypass : Bool) (s : State) :
    (applyConfig w h trav bypass s).mode = .idle := rfl
@[simp] theorem applyConfig_errcode (w h : Nat) (trav : Traversal) (bypass : Bool) (s : State) :
    (applyConfig w h trav bypass s).errcode = s.errcode := rfl
@[simp] theorem applyConfig_cfgW (w h : Nat) (trav : Traversal) (bypass : Bool) (s : State) :
    (applyConfig w h trav bypass s).cfgW = BitVec.ofNat 9 w := rfl
@[simp] theorem applyConfig_cfgH (w h : Nat) (trav : Traversal) (bypass : Bool) (s : State) :
    (applyConfig w h trav bypass s).cfgH = BitVec.ofNat 9 h := rfl
@[simp] theorem applyConfig_trav (w h : Nat) (trav : Traversal) (bypass : Bool) (s : State) :
    (applyConfig w h trav bypass s).trav = trav := rfl
@[simp] theorem applyConfig_bypass (w h : Nat) (trav : Traversal) (bypass : Bool) (s : State) :
    (applyConfig w h trav bypass s).bypass = bypass := rfl
@[simp] theorem applyConfig_x (w h : Nat) (trav : Traversal) (bypass : Bool) (s : State) :
    (applyConfig w h trav bypass s).x = s.x := rfl
@[simp] theorem applyConfig_y (w h : Nat) (trav : Traversal) (bypass : Bool) (s : State) :
    (applyConfig w h trav bypass s).y = s.y := rfl
@[simp] theorem applyConfig_pixcount (w h : Nat) (trav : Traversal) (bypass : Bool) (s : State) :
    (applyConfig w h trav bypass s).pixcount = s.pixcount := rfl
@[simp] theorem applyConfig_errCur (w h : Nat) (trav : Traversal) (bypass : Bool) (s : State) :
    (applyConfig w h trav bypass s).errCur = s.errCur := rfl
@[simp] theorem applyConfig_errNxt (w h : Nat) (trav : Traversal) (bypass : Bool) (s : State) :
    (applyConfig w h trav bypass s).errNxt = s.errNxt := rfl
@[simp] theorem applyConfig_buf (w h : Nat) (trav : Traversal) (bypass : Bool) (s : State) :
    (applyConfig w h trav bypass s).buf = s.buf := rfl
@[simp] theorem applyConfig_resets (w h : Nat) (trav : Traversal) (bypass : Bool) (s : State) :
    (applyConfig w h trav bypass s).resets = s.resets := rfl
@[simp] theorem applyConfig_inbox (w h : Nat) (trav : Traversal) (bypass : Bool) (s : State) :
    (applyConfig w h trav bypass s).inbox = s.inbox := rfl
@[simp] theorem applyConfig_responses (w h : Nat) (trav : Traversal) (bypass : Bool) (s : State) :
    (applyConfig w h trav bypass s).responses = s.responses := rfl

/-! ### beginFrame -/

@[simp] theorem beginFrame_params (s : State) :
    (beginFrame s).params = s.params := rfl
@[simp] theorem beginFrame_mode (s : State) :
    (beginFrame s).mode = .run := rfl
@[simp] theorem beginFrame_errcode (s : State) :
    (beginFrame s).errcode = s.errcode := rfl
@[simp] theorem beginFrame_cfgW (s : State) :
    (beginFrame s).cfgW = s.cfgW := rfl
@[simp] theorem beginFrame_cfgH (s : State) :
    (beginFrame s).cfgH = s.cfgH := rfl
@[simp] theorem beginFrame_trav (s : State) :
    (beginFrame s).trav = s.trav := rfl
@[simp] theorem beginFrame_bypass (s : State) :
    (beginFrame s).bypass = s.bypass := rfl
@[simp] theorem beginFrame_x (s : State) :
    (beginFrame s).x = 0 := rfl
@[simp] theorem beginFrame_y (s : State) :
    (beginFrame s).y = 0 := rfl
@[simp] theorem beginFrame_pixcount (s : State) :
    (beginFrame s).pixcount = 0 := rfl
@[simp] theorem beginFrame_errCur (s : State) :
    (beginFrame s).errCur = zeroRow s := rfl
@[simp] theorem beginFrame_errNxt (s : State) :
    (beginFrame s).errNxt = zeroRow s := rfl
@[simp] theorem beginFrame_buf (s : State) :
    (beginFrame s).buf = clearedBuf := rfl
@[simp] theorem beginFrame_resets (s : State) :
    (beginFrame s).resets = s.resets := rfl
@[simp] theorem beginFrame_inbox (s : State) :
    (beginFrame s).inbox = s.inbox := rfl
@[simp] theorem beginFrame_responses (s : State) :
    (beginFrame s).responses = s.responses := rfl

/-! ### respond -/

@[simp] theorem respond_params (v : RegValue) (s : State) :
    (respond v s).params = s.params := rfl
@[simp] theorem respond_mode (v : RegValue) (s : State) :
    (respond v s).mode = s.mode := rfl
@[simp] theorem respond_errcode (v : RegValue) (s : State) :
    (respond v s).errcode = s.errcode := rfl
@[simp] theorem respond_cfgW (v : RegValue) (s : State) :
    (respond v s).cfgW = s.cfgW := rfl
@[simp] theorem respond_cfgH (v : RegValue) (s : State) :
    (respond v s).cfgH = s.cfgH := rfl
@[simp] theorem respond_trav (v : RegValue) (s : State) :
    (respond v s).trav = s.trav := rfl
@[simp] theorem respond_bypass (v : RegValue) (s : State) :
    (respond v s).bypass = s.bypass := rfl
@[simp] theorem respond_x (v : RegValue) (s : State) :
    (respond v s).x = s.x := rfl
@[simp] theorem respond_y (v : RegValue) (s : State) :
    (respond v s).y = s.y := rfl
@[simp] theorem respond_pixcount (v : RegValue) (s : State) :
    (respond v s).pixcount = s.pixcount := rfl
@[simp] theorem respond_errCur (v : RegValue) (s : State) :
    (respond v s).errCur = s.errCur := rfl
@[simp] theorem respond_errNxt (v : RegValue) (s : State) :
    (respond v s).errNxt = s.errNxt := rfl
@[simp] theorem respond_buf (v : RegValue) (s : State) :
    (respond v s).buf = s.buf := rfl
@[simp] theorem respond_resets (v : RegValue) (s : State) :
    (respond v s).resets = s.resets := rfl
@[simp] theorem respond_inbox (v : RegValue) (s : State) :
    (respond v s).inbox = s.inbox := rfl
@[simp] theorem respond_responses (v : RegValue) (s : State) :
    (respond v s).responses = s.responses ++ [v] := rfl

/-! ### memWrite -/

@[simp] theorem memWrite_params (a : Nat) (v : Byte) (s : State) :
    (memWrite a v s).params = s.params := rfl
@[simp] theorem memWrite_mode (a : Nat) (v : Byte) (s : State) :
    (memWrite a v s).mode = s.mode := rfl
@[simp] theorem memWrite_errcode (a : Nat) (v : Byte) (s : State) :
    (memWrite a v s).errcode = s.errcode := rfl
@[simp] theorem memWrite_cfgW (a : Nat) (v : Byte) (s : State) :
    (memWrite a v s).cfgW = s.cfgW := rfl
@[simp] theorem memWrite_cfgH (a : Nat) (v : Byte) (s : State) :
    (memWrite a v s).cfgH = s.cfgH := rfl
@[simp] theorem memWrite_trav (a : Nat) (v : Byte) (s : State) :
    (memWrite a v s).trav = s.trav := rfl
@[simp] theorem memWrite_bypass (a : Nat) (v : Byte) (s : State) :
    (memWrite a v s).bypass = s.bypass := rfl
@[simp] theorem memWrite_x (a : Nat) (v : Byte) (s : State) :
    (memWrite a v s).x = s.x := rfl
@[simp] theorem memWrite_y (a : Nat) (v : Byte) (s : State) :
    (memWrite a v s).y = s.y := rfl
@[simp] theorem memWrite_pixcount (a : Nat) (v : Byte) (s : State) :
    (memWrite a v s).pixcount = s.pixcount := rfl
@[simp] theorem memWrite_errCur (a : Nat) (v : Byte) (s : State) :
    (memWrite a v s).errCur = s.errCur := rfl
@[simp] theorem memWrite_errNxt (a : Nat) (v : Byte) (s : State) :
    (memWrite a v s).errNxt = s.errNxt := rfl
@[simp] theorem memWrite_buf (a : Nat) (v : Byte) (s : State) :
    (memWrite a v s).buf = writeByte s.buf a v := rfl
@[simp] theorem memWrite_resets (a : Nat) (v : Byte) (s : State) :
    (memWrite a v s).resets = s.resets := rfl
@[simp] theorem memWrite_inbox (a : Nat) (v : Byte) (s : State) :
    (memWrite a v s).inbox = s.inbox := rfl
@[simp] theorem memWrite_responses (a : Nat) (v : Byte) (s : State) :
    (memWrite a v s).responses = s.responses := rfl

/-! ### pushRequest -/

@[simp] theorem pushRequest_params (q : Request) (s : State) :
    (pushRequest q s).params = s.params := rfl
@[simp] theorem pushRequest_mode (q : Request) (s : State) :
    (pushRequest q s).mode = s.mode := rfl
@[simp] theorem pushRequest_errcode (q : Request) (s : State) :
    (pushRequest q s).errcode = s.errcode := rfl
@[simp] theorem pushRequest_cfgW (q : Request) (s : State) :
    (pushRequest q s).cfgW = s.cfgW := rfl
@[simp] theorem pushRequest_cfgH (q : Request) (s : State) :
    (pushRequest q s).cfgH = s.cfgH := rfl
@[simp] theorem pushRequest_trav (q : Request) (s : State) :
    (pushRequest q s).trav = s.trav := rfl
@[simp] theorem pushRequest_bypass (q : Request) (s : State) :
    (pushRequest q s).bypass = s.bypass := rfl
@[simp] theorem pushRequest_x (q : Request) (s : State) :
    (pushRequest q s).x = s.x := rfl
@[simp] theorem pushRequest_y (q : Request) (s : State) :
    (pushRequest q s).y = s.y := rfl
@[simp] theorem pushRequest_pixcount (q : Request) (s : State) :
    (pushRequest q s).pixcount = s.pixcount := rfl
@[simp] theorem pushRequest_errCur (q : Request) (s : State) :
    (pushRequest q s).errCur = s.errCur := rfl
@[simp] theorem pushRequest_errNxt (q : Request) (s : State) :
    (pushRequest q s).errNxt = s.errNxt := rfl
@[simp] theorem pushRequest_buf (q : Request) (s : State) :
    (pushRequest q s).buf = s.buf := rfl
@[simp] theorem pushRequest_resets (q : Request) (s : State) :
    (pushRequest q s).resets = s.resets := rfl
@[simp] theorem pushRequest_inbox (q : Request) (s : State) :
    (pushRequest q s).inbox = .request q :: s.inbox := rfl
@[simp] theorem pushRequest_responses (q : Request) (s : State) :
    (pushRequest q s).responses = s.responses := rfl

/-! ### diffuse -/

@[simp] theorem diffuse_params (q : Rgb Int) (s : State) :
    (diffuse q s).params = s.params := rfl
@[simp] theorem diffuse_mode (q : Rgb Int) (s : State) :
    (diffuse q s).mode = s.mode := rfl
@[simp] theorem diffuse_errcode (q : Rgb Int) (s : State) :
    (diffuse q s).errcode = s.errcode := rfl
@[simp] theorem diffuse_cfgW (q : Rgb Int) (s : State) :
    (diffuse q s).cfgW = s.cfgW := rfl
@[simp] theorem diffuse_cfgH (q : Rgb Int) (s : State) :
    (diffuse q s).cfgH = s.cfgH := rfl
@[simp] theorem diffuse_trav (q : Rgb Int) (s : State) :
    (diffuse q s).trav = s.trav := rfl
@[simp] theorem diffuse_bypass (q : Rgb Int) (s : State) :
    (diffuse q s).bypass = s.bypass := rfl
@[simp] theorem diffuse_x (q : Rgb Int) (s : State) :
    (diffuse q s).x = s.x := rfl
@[simp] theorem diffuse_y (q : Rgb Int) (s : State) :
    (diffuse q s).y = s.y := rfl
@[simp] theorem diffuse_pixcount (q : Rgb Int) (s : State) :
    (diffuse q s).pixcount = s.pixcount := rfl
@[simp] theorem diffuse_errCur (q : Rgb Int) (s : State) :
    (diffuse q s).errCur = diffuseRight s.cfgW.toNat s.x.toNat q s.errCur := rfl
@[simp] theorem diffuse_errNxt (q : Rgb Int) (s : State) :
    (diffuse q s).errNxt = if s.y.toNat + 1 < s.cfgH.toNat then diffuseBelow s.cfgW.toNat s.x.toNat q s.errNxt else s.errNxt := rfl
@[simp] theorem diffuse_buf (q : Rgb Int) (s : State) :
    (diffuse q s).buf = s.buf := rfl
@[simp] theorem diffuse_resets (q : Rgb Int) (s : State) :
    (diffuse q s).resets = s.resets := rfl
@[simp] theorem diffuse_inbox (q : Rgb Int) (s : State) :
    (diffuse q s).inbox = s.inbox := rfl
@[simp] theorem diffuse_responses (q : Rgb Int) (s : State) :
    (diffuse q s).responses = s.responses := rfl

/-! ### endRow -/

@[simp] theorem endRow_params (s : State) :
    (endRow s).params = s.params := rfl
@[simp] theorem endRow_mode (s : State) :
    (endRow s).mode = s.mode := rfl
@[simp] theorem endRow_errcode (s : State) :
    (endRow s).errcode = s.errcode := rfl
@[simp] theorem endRow_cfgW (s : State) :
    (endRow s).cfgW = s.cfgW := rfl
@[simp] theorem endRow_cfgH (s : State) :
    (endRow s).cfgH = s.cfgH := rfl
@[simp] theorem endRow_trav (s : State) :
    (endRow s).trav = s.trav := rfl
@[simp] theorem endRow_bypass (s : State) :
    (endRow s).bypass = s.bypass := rfl
@[simp] theorem endRow_x (s : State) :
    (endRow s).x = 0 := rfl
@[simp] theorem endRow_y (s : State) :
    (endRow s).y = s.y + 1 := rfl
@[simp] theorem endRow_pixcount (s : State) :
    (endRow s).pixcount = s.pixcount := rfl
@[simp] theorem endRow_errCur (s : State) :
    (endRow s).errCur = s.errNxt := rfl
@[simp] theorem endRow_errNxt (s : State) :
    (endRow s).errNxt = zeroRow s := rfl
@[simp] theorem endRow_buf (s : State) :
    (endRow s).buf = s.buf := rfl
@[simp] theorem endRow_resets (s : State) :
    (endRow s).resets = s.resets := rfl
@[simp] theorem endRow_inbox (s : State) :
    (endRow s).inbox = s.inbox := rfl
@[simp] theorem endRow_responses (s : State) :
    (endRow s).responses = s.responses := rfl

/-! ### countPixel -/

@[simp] theorem countPixel_params (s : State) :
    (countPixel s).params = s.params := rfl
@[simp] theorem countPixel_mode (s : State) :
    (countPixel s).mode = s.mode := rfl
@[simp] theorem countPixel_errcode (s : State) :
    (countPixel s).errcode = s.errcode := rfl
@[simp] theorem countPixel_cfgW (s : State) :
    (countPixel s).cfgW = s.cfgW := rfl
@[simp] theorem countPixel_cfgH (s : State) :
    (countPixel s).cfgH = s.cfgH := rfl
@[simp] theorem countPixel_trav (s : State) :
    (countPixel s).trav = s.trav := rfl
@[simp] theorem countPixel_bypass (s : State) :
    (countPixel s).bypass = s.bypass := rfl
@[simp] theorem countPixel_x (s : State) :
    (countPixel s).x = s.x + 1 := rfl
@[simp] theorem countPixel_y (s : State) :
    (countPixel s).y = s.y := rfl
@[simp] theorem countPixel_pixcount (s : State) :
    (countPixel s).pixcount = s.pixcount + 1 := rfl
@[simp] theorem countPixel_errCur (s : State) :
    (countPixel s).errCur = s.errCur := rfl
@[simp] theorem countPixel_errNxt (s : State) :
    (countPixel s).errNxt = s.errNxt := rfl
@[simp] theorem countPixel_buf (s : State) :
    (countPixel s).buf = s.buf := rfl
@[simp] theorem countPixel_resets (s : State) :
    (countPixel s).resets = s.resets := rfl
@[simp] theorem countPixel_inbox (s : State) :
    (countPixel s).inbox = s.inbox := rfl
@[simp] theorem countPixel_responses (s : State) :
    (countPixel s).responses = s.responses := rfl

/-! ### hostReset -/

@[simp] theorem hostReset_params (p : Option Request) (s : State) :
    (hostReset p s).params = s.params := rfl
@[simp] theorem hostReset_mode (p : Option Request) (s : State) :
    (hostReset p s).mode = .idle := rfl
@[simp] theorem hostReset_errcode (p : Option Request) (s : State) :
    (hostReset p s).errcode = 0 := rfl
@[simp] theorem hostReset_cfgW (p : Option Request) (s : State) :
    (hostReset p s).cfgW = 0 := rfl
@[simp] theorem hostReset_cfgH (p : Option Request) (s : State) :
    (hostReset p s).cfgH = 0 := rfl
@[simp] theorem hostReset_trav (p : Option Request) (s : State) :
    (hostReset p s).trav = .columnMajor := rfl
@[simp] theorem hostReset_bypass (p : Option Request) (s : State) :
    (hostReset p s).bypass = false := rfl
@[simp] theorem hostReset_x (p : Option Request) (s : State) :
    (hostReset p s).x = 0 := rfl
@[simp] theorem hostReset_y (p : Option Request) (s : State) :
    (hostReset p s).y = 0 := rfl
@[simp] theorem hostReset_pixcount (p : Option Request) (s : State) :
    (hostReset p s).pixcount = 0 := rfl
@[simp] theorem hostReset_errCur (p : Option Request) (s : State) :
    (hostReset p s).errCur = zeroRow s := rfl
@[simp] theorem hostReset_errNxt (p : Option Request) (s : State) :
    (hostReset p s).errNxt = zeroRow s := rfl
@[simp] theorem hostReset_buf (p : Option Request) (s : State) :
    (hostReset p s).buf = { fill := .unspecified (s.resets + 1), cells := [] } := rfl
@[simp] theorem hostReset_resets (p : Option Request) (s : State) :
    (hostReset p s).resets = s.resets + 1 := rfl
@[simp] theorem hostReset_inbox (p : Option Request) (s : State) :
    (hostReset p s).inbox = s.inbox := rfl
@[simp] theorem hostReset_responses (p : Option Request) (s : State) :
    (hostReset p s).responses = s.responses := rfl

/-! ### endFrame, whose update depends on the row -/

@[simp] theorem endFrame_mode (s : State) :
    (endFrame s).mode = if s.y = s.cfgH then .done else s.mode := by
  unfold endFrame
  split <;> rfl
@[simp] theorem endFrame_params (s : State) : (endFrame s).params = s.params := by
  unfold endFrame
  split <;> rfl
@[simp] theorem endFrame_errcode (s : State) : (endFrame s).errcode = s.errcode := by
  unfold endFrame
  split <;> rfl
@[simp] theorem endFrame_cfgW (s : State) : (endFrame s).cfgW = s.cfgW := by
  unfold endFrame
  split <;> rfl
@[simp] theorem endFrame_cfgH (s : State) : (endFrame s).cfgH = s.cfgH := by
  unfold endFrame
  split <;> rfl
@[simp] theorem endFrame_trav (s : State) : (endFrame s).trav = s.trav := by
  unfold endFrame
  split <;> rfl
@[simp] theorem endFrame_bypass (s : State) : (endFrame s).bypass = s.bypass := by
  unfold endFrame
  split <;> rfl
@[simp] theorem endFrame_x (s : State) : (endFrame s).x = s.x := by
  unfold endFrame
  split <;> rfl
@[simp] theorem endFrame_y (s : State) : (endFrame s).y = s.y := by
  unfold endFrame
  split <;> rfl
@[simp] theorem endFrame_pixcount (s : State) : (endFrame s).pixcount = s.pixcount := by
  unfold endFrame
  split <;> rfl
@[simp] theorem endFrame_errCur (s : State) : (endFrame s).errCur = s.errCur := by
  unfold endFrame
  split <;> rfl
@[simp] theorem endFrame_errNxt (s : State) : (endFrame s).errNxt = s.errNxt := by
  unfold endFrame
  split <;> rfl
@[simp] theorem endFrame_buf (s : State) : (endFrame s).buf = s.buf := by
  unfold endFrame
  split <;> rfl
@[simp] theorem endFrame_resets (s : State) : (endFrame s).resets = s.resets := by
  unfold endFrame
  split <;> rfl
@[simp] theorem endFrame_inbox (s : State) : (endFrame s).inbox = s.inbox := by
  unfold endFrame
  split <;> rfl
@[simp] theorem endFrame_responses (s : State) : (endFrame s).responses = s.responses := by
  unfold endFrame
  split <;> rfl

end Sys2Proof.Machine
end

