-- ==== Sys2Proof/Laws/Memory.lean ====
section
/-! SUPPORT. BUF: reading after writing, the canonical form kept by every memory operation, and its form at reset. -/

namespace Sys2Proof.Machine

theorem cellAt_eraseCell (a b : Nat) (cells : List Host.Cell) :
    cellAt b (eraseCell a cells) = if b = a then none else cellAt b cells := by
  induction cells with
  | nil => simp [eraseCell, cellAt]
  | cons c rest ih =>
    by_cases hc : c.1 = a <;> by_cases hb : b = a <;> by_cases hcb : c.1 = b <;>
      simp_all [eraseCell, cellAt]

theorem cellAt_putCell (a b : Nat) (v : Byte) (cells : List Host.Cell) :
    cellAt b (putCell a v cells) = if b = a then some v else cellAt b cells := by
  induction cells with
  | nil => by_cases hb : b = a <;> simp_all [putCell, cellAt, eq_comm]
  | cons c rest ih =>
    rcases lt_trichotomy c.1 a with hc | hc | hc
    · by_cases hb : b = a
      · have : c.1 ≠ a := by omega
        simp_all [putCell, cellAt]
      · by_cases hcb : c.1 = b <;> simp_all [putCell, cellAt]
    · by_cases hb : b = a <;> simp_all [putCell, cellAt, eq_comm]
    · have h1 : ¬ c.1 < a := by omega
      have h2 : ¬ c.1 = a := by omega
      rw [putCell, if_neg h1, if_neg h2]
      by_cases hb : b = a
      · subst hb
        simp [cellAt]
      · have hab : ¬ a = b := fun h => hb h.symm
        simp [cellAt, hb, hab]

/-- A read after a write: the value written at its address, what was there before at every other. -/
theorem readByte_writeByte (m : Memory) (a b : Nat) (v : Byte) :
    readByte (writeByte m a v) b = if b = a then v else readByte m b := by
  unfold writeByte readByte
  by_cases hv : v = fillByte m.fill a
  · by_cases hb : b = a <;> simp [hv, cellAt_eraseCell, hb]
  · by_cases hb : b = a <;> simp [hv, cellAt_putCell, hb]

@[simp] theorem memRead_memWrite (a b : Nat) (v : Byte) (s : State) :
    memRead b (memWrite a v s) = if b = a then v else memRead b s := readByte_writeByte s.buf a b v

@[simp] theorem readByte_clearedBuf (a : Nat) : readByte clearedBuf a = 0 := rfl

@[simp] theorem writeByte_fill (m : Memory) (a : Nat) (v : Byte) : (writeByte m a v).fill = m.fill := rfl

theorem mem_eraseCell {a : Nat} {c : Host.Cell} {cells : List Host.Cell} (h : c ∈ eraseCell a cells) :
    c ∈ cells ∧ c.1 ≠ a := by
  induction cells with
  | nil => simp [eraseCell] at h
  | cons d rest ih =>
    by_cases hd : d.1 = a
    · simp only [eraseCell, hd, if_true] at h
      exact ⟨List.mem_cons_of_mem _ (ih h).1, (ih h).2⟩
    · simp only [eraseCell, hd, if_false, List.mem_cons] at h
      rcases h with rfl | h
      · exact ⟨List.mem_cons_self, hd⟩
      · exact ⟨List.mem_cons_of_mem _ (ih h).1, (ih h).2⟩

theorem mem_putCell {a : Nat} {v : Byte} {c : Host.Cell} {cells : List Host.Cell} (h : c ∈ putCell a v cells) :
    c = (a, v) ∨ c ∈ cells := by
  induction cells with
  | nil => simp only [putCell, List.mem_singleton] at h; exact .inl h
  | cons d rest ih =>
    unfold putCell at h
    split at h
    · rcases List.mem_cons.1 h with rfl | h
      · exact .inr List.mem_cons_self
      · exact (ih h).imp_right (List.mem_cons_of_mem _)
    · split at h
      · exact (List.mem_cons.1 h).imp_right (List.mem_cons_of_mem _)
      · exact List.mem_cons.1 h

theorem eraseCell_rising {a : Nat} {cells : List Host.Cell} (h : cells.Pairwise (fun c d => c.1 < d.1)) :
    (eraseCell a cells).Pairwise (fun c d => c.1 < d.1) := by
  induction cells with
  | nil => exact h
  | cons c rest ih =>
    obtain ⟨hc, hr⟩ := List.pairwise_cons.1 h
    unfold eraseCell
    split
    · exact ih hr
    · exact List.pairwise_cons.2 ⟨fun d hd => hc d (mem_eraseCell hd).1, ih hr⟩

theorem putCell_rising {a : Nat} {v : Byte} {cells : List Host.Cell}
    (h : cells.Pairwise (fun c d => c.1 < d.1)) : (putCell a v cells).Pairwise (fun c d => c.1 < d.1) := by
  induction cells with
  | nil => exact List.pairwise_singleton _ _
  | cons c rest ih =>
    obtain ⟨hc, hr⟩ := List.pairwise_cons.1 h
    unfold putCell
    split
    · refine List.pairwise_cons.2 ⟨fun d hd => ?_, ih hr⟩
      rcases mem_putCell hd with rfl | hd
      · assumption
      · exact hc d hd
    · split
      · exact List.pairwise_cons.2 ⟨fun d hd => by have := hc d hd; omega, hr⟩
      · refine List.pairwise_cons.2 ⟨fun d hd => ?_, h⟩
        rcases List.mem_cons.1 hd with rfl | hd
        · show a < _
          omega
        · have := hc d hd
          show a < _
          omega

/-- A write keeps the canonical form. -/
theorem writeByte_wf {m : Memory} (a : Nat) (v : Byte) (h : m.wf) : (writeByte m a v).wf := by
  obtain ⟨hrise, hnew⟩ := h
  unfold writeByte
  by_cases hv : v = fillByte m.fill a
  · simp only [Memory.wf, hv, if_true]
    exact ⟨eraseCell_rising hrise, fun c hc => hnew c (mem_eraseCell hc).1⟩
  · simp only [Memory.wf, hv, if_false]
    refine ⟨putCell_rising hrise, fun c hc => ?_⟩
    rcases mem_putCell hc with rfl | hc
    · exact hv
    · exact hnew c hc

theorem clearedBuf_wf : clearedBuf.wf := ⟨.nil, by simp [clearedBuf]⟩

theorem afterReset_buf_wf (p : Config.Params) (n : Nat) : (State.afterReset p n).buf.wf :=
  ⟨.nil, by simp [State.afterReset]⟩

theorem reset_buf_wf : State.reset.buf.wf := afterReset_buf_wf _ _

/-- A write lists no address but its own and those listed before. -/
theorem writeByte_inside {m : Memory} {a bound : Nat} (v : Byte) (ha : a < bound)
    (h : ∀ c ∈ m.cells, c.1 < bound) : ∀ c ∈ (writeByte m a v).cells, c.1 < bound := by
  intro c hc
  unfold writeByte at hc
  by_cases hv : v = fillByte m.fill a
  · simp only [hv, if_true] at hc
    exact h c (mem_eraseCell hc).1
  · simp only [hv, if_false] at hc
    rcases mem_putCell hc with rfl | hc
    · exact ha
    · exact h c hc

end Sys2Proof.Machine
end

