-- ==== Sys2Proof/Laws/Ops.lean ====
section
/-! SUPPORT. One lemma for each shared operation, saying once what it can do. -/

namespace Sys2Proof.Machine

/-! ### ERROR and the errors -/

theorem unlessError_error {s : State} (h : s.mode = .error) (o : Host.Outcome State Fault Refusal) :
    unlessError s o = .next s := by simp [unlessError, h]

theorem unlessError_else {s : State} (h : s.mode ≠ .error) (o : Host.Outcome State Fault Refusal) :
    unlessError s o = o := by simp [unlessError, h]

/-- A command under `unlessError` either is ignored in ERROR or is performed outside it. -/
theorem unlessError_cases {s t : State} {o : Host.Outcome State Fault Refusal} (h : unlessError s o = .next t) :
    (s.mode = .error ∧ t = s) ∨ (s.mode ≠ .error ∧ o = .next t) := by
  unfold unlessError at h
  split at h
  · cases h; exact .inl ⟨‹_›, rfl⟩
  · exact .inr ⟨‹_›, h⟩

/-- An illegal word is ignored in ERROR and raises its error elsewhere. -/
theorem illegalWord_cases {c : ErrCode} {s t : State} (h : illegalWord c s = .next t) :
    (s.mode = .error ∧ t = s) ∨ (s.mode ≠ .error ∧ t = raiseError c s) := by
  rcases unlessError_cases h with h | ⟨hm, h⟩
  · exact .inl h
  · cases h; exact .inr ⟨hm, rfl⟩

theorem errBits_ne_zero (c : ErrCode) : errBits c ≠ 0 := by cases c <;> decide

theorem errBits_le (c : ErrCode) : (errBits c).toNat ≤ 7 := by cases c <;> decide

/-! ### The control commands: what each can answer -/

theorem execNop_cases {s t : State} (h : execNop s = .next t) : t = s := by
  rcases unlessError_cases h with ⟨_, h⟩ | ⟨_, h⟩
  · exact h
  · cases h; rfl

theorem execConfig_cases {w h : Nat} {trav : Traversal} {bypass : Bool} {s t : State}
    (he : execConfig w h trav bypass s = .next t) :
    (s.mode = .error ∧ t = s) ∨ (s.mode = .run ∧ t = raiseError .eBusy s) ∨
    ((s.mode = .idle ∨ s.mode = .done) ∧
      ((badDims s.params w h = true ∧ t = raiseError .eDims s) ∨
        (badDims s.params w h = false ∧ t = applyConfig w h trav bypass s))) := by
  rcases unlessError_cases he with h | ⟨hm, he⟩
  · exact .inl h
  · cases hmode : s.mode <;> simp_all <;> cases hb : badDims s.params w h <;> simp_all

theorem execProfile_cases {sel : Nat} {s t : State} (he : execProfile sel s = .next t) :
    (s.mode = .error ∧ t = s) ∨ (s.mode = .run ∧ t = raiseError .eBusy s) ∨
    ((s.mode = .idle ∨ s.mode = .done) ∧
      ((profileDims sel = none ∧ t = raiseError .eSel s) ∨
        ∃ w h, profileDims sel = some (w, h) ∧
          ((profileTooLarge s.params w h = true ∧ t = raiseError .eDims s) ∨
            (profileTooLarge s.params w h = false ∧ t = applyConfig w h .columnMajor false s)))) := by
  rcases unlessError_cases he with h | ⟨hm, he⟩
  · exact .inl h
  · cases hp : profileDims sel with
    | none => cases hmode : s.mode <;> simp_all
    | some d =>
      obtain ⟨w, h⟩ := d
      cases hl : profileTooLarge s.params w h <;> cases hmode : s.mode <;> simp_all

theorem execStart_cases {s t : State} (he : execStart s = .next t) :
    (s.mode = .error ∧ t = s) ∨ (s.mode = .run ∧ t = raiseError .eBusy s) ∨
    ((s.mode = .idle ∨ s.mode = .done) ∧
      ((unconfigured s = true ∧ t = raiseError .eNoCfg s) ∨ (unconfigured s = false ∧ t = beginFrame s))) := by
  rcases unlessError_cases he with h | ⟨hm, he⟩
  · exact .inl h
  · cases hu : unconfigured s <;> cases hmode : s.mode <;> simp_all

theorem execClear_cases {s t : State} (he : execClear s = .next t) :
    (s.mode = .error ∧ t = clearError s) ∨ (s.mode ≠ .error ∧ t = s) := by
  unfold execClear at he
  split at he <;> cases he
  · exact .inl ⟨‹_›, rfl⟩
  · exact .inr ⟨‹_›, rfl⟩

/-- The dimensions a selector can name (40_control.md R104). -/
theorem profileDims_cases {sel w h : Nat} (hp : profileDims sel = some (w, h)) :
    (sel = 0 ∧ w = 120 ∧ h = 128) ∨ (sel = 1 ∧ w = 246 ∧ h = 128) := by
  unfold profileDims at hp
  split at hp <;> simp_all

/-! ### PIXEL's parts -/

/-- The pixel's bit is the classification, with the state as it was, or the dithered bit with the error diffused. -/
theorem pixelBit_cases {p : Rgb Nat} {s t : State} {bit : Bool} (h : pixelBit p s = .ok (bit, t)) :
    (s.bypass = true ∧ bit = classify p ∧ t = s) ∨
    (s.bypass = false ∧ lineInside s = true ∧
      ∃ v, v = adjusted p (rowAt s.errCur s.x.toNat) ∧ bit = colourBit (nearest v) ∧
        t = diffuse (quantError v (nearest v)) s) := by
  unfold pixelBit at h
  cases hb : s.bypass <;> cases hl : lineInside s <;> simp_all [dither]

/-- Packing writes the byte of the position's bit index, inside BUF. -/
theorem pack_cases {bit : Bool} {s t : State} (h : pack bit s = .ok t) :
    curIndex s / 8 < bufBytes s.params ∧
    t = memWrite (curIndex s / 8) (setBit (memRead (curIndex s / 8) s) (curIndex s) bit) s := by
  unfold pack at h
  by_cases hin : inBuf (curIndex s / 8) s = true
  · simp only [hin, if_true, Except.ok.injEq] at h
    exact ⟨of_decide_eq_true hin, h.symm⟩
  · simp only [hin] at h
    cases h

/-- The advance stays in the row, or ends it, and with the last row the frame. -/
theorem advance_cases (s : State) :
    (s.x + 1 ≠ s.cfgW ∧ advance s = countPixel s) ∨
    (s.x + 1 = s.cfgW ∧ advance s = endFrame (endRow (countPixel s))) := by
  by_cases h : s.x + 1 = s.cfgW
  · exact .inr ⟨h, if_pos h⟩
  · exact .inl ⟨h, if_neg h⟩

/-- An accepted PIXEL is its bit, packed, then the advance. -/
theorem takePixel_cases {p : Rgb Nat} {s t : State} (h : takePixel p s = .next t) :
    ∃ bit u v, pixelBit p s = .ok (bit, u) ∧ pack bit u = .ok v ∧ t = advance v := by
  unfold takePixel at h
  split at h
  · cases h
  · split at h
    · cases h
    · cases h; exact ⟨_, _, _, ‹_›, ‹_›, rfl⟩

theorem execPixel_cases {r g b : Nat} {s t : State} (h : execPixel r g b s = .next t) :
    (s.mode = .error ∧ t = s) ∨ ((s.mode = .idle ∨ s.mode = .done) ∧ t = raiseError .eNotRun s) ∨
    (s.mode = .run ∧ takePixel ⟨r, g, b⟩ s = .next t) := by
  rcases unlessError_cases h with h | ⟨hm, h⟩
  · exact .inl h
  · cases hmode : s.mode <;> simp_all

/-! ### The line buffer -/

@[simp] theorem addToRow_length (i : Nat) (weight : Int) (q : Rgb Int) (row : Row) :
    (addToRow i weight q row).length = row.length := List.length_modify ..

@[simp] theorem zeroRow_length (s : State) : (zeroRow s).length = s.params.wMax := List.length_replicate ..

@[simp] theorem diffuseRight_length (w x : Nat) (q : Rgb Int) (row : Row) :
    (diffuseRight w x q row).length = row.length := by
  unfold diffuseRight
  split <;> simp

@[simp] theorem diffuseBelow_length (w x : Nat) (q : Rgb Int) (row : Row) :
    (diffuseBelow w x q row).length = row.length := by
  unfold diffuseBelow
  by_cases h1 : x ≥ 1 <;> by_cases h2 : x + 1 < w <;> simp [h1, h2]

@[simp] theorem rowAt_zeroRow (s : State) (i : Nat) : rowAt (zeroRow s) i = Rgb.all 0 := by
  unfold rowAt zeroRow
  by_cases h : i < s.params.wMax <;> simp [List.getD_eq_getElem?_getD, h, Rgb.map, Rgb.all]

/-- Adding to the entry of column `i` changes that entry alone. -/
theorem rowAt_addToRow (i j : Nat) (weight : Int) (q : Rgb Int) (row : Row) :
    rowAt (addToRow i weight q row) j =
      if j = i ∧ i < row.length then (addToEntry weight q (row.getD i (Rgb.all 0))).map BitVec.toInt
      else rowAt row j := by
  unfold rowAt addToRow
  by_cases hj : j = i
  · subst hj
    by_cases hl : j < row.length
    · simp [List.getD_eq_getElem?_getD, hl]
    · simp [List.getD_eq_getElem?_getD, hl]
  · have : ¬ i = j := fun h => hj h.symm
    simp [List.getD_eq_getElem?_getD, hj, this]

/-! ### The host's queue -/

/-- The next operation is the head of the queue. -/
theorem nextOp_cases (s : State) :
    (s.inbox = [] ∧ nextOp s = none) ∨
    ∃ op rest, s.inbox = op :: rest ∧ nextOp s = some (op, { s with inbox := rest }) := by
  unfold nextOp
  cases s.inbox with
  | nil => exact .inl ⟨rfl, rfl⟩
  | cons op rest => exact .inr ⟨op, rest, rfl, rfl⟩

@[simp] theorem waitForHost_eq (s : State) : waitForHost s = s := rfl

end Sys2Proof.Machine
end

