-- ==== Sys2Proof/Laws/PerInstr.lean ====
section
/-! SUPPORT. Per instruction: the encoding of a well-formed instruction has the fixed bits of its row of the opcode
table (its `match` under its `mask`) and goes to that row's port. -/

namespace Sys2Proof.Laws.TableRow

/-- A command word carries a row's fixed bits. -/
def commandRow (mask fixed : CmdWord) : Request → Prop
  | .command w => w &&& mask = fixed
  | .read _ => False

/-- A read request carries a row's fixed bits. -/
def readRow (mask fixed : ReadWord) : Request → Prop
  | .command _ => False
  | .read r => r &&& mask = fixed

/-- The row of the opcode table that an instruction's encoding must fit. -/
def fits : Instr → Request → Prop
  | .nop => commandRow 0xFFFFFFFFFFFFFFFF#64 0x0000000000000000#64
  | .config _ _ _ _ => commandRow 0xFFFFFFFCFE00FE00#64 0x1000000000000000#64
  | .profile _ => commandRow 0xFFFFFFFFFFFFFF00#64 0x2000000000000000#64
  | .start => commandRow 0xFFFFFFFFFFFFFFFF#64 0x3000000000000000#64
  | .pixel _ _ _ => commandRow 0xFFFF000000000000#64 0x4000000000000000#64
  | .clear => commandRow 0xFFFFFFFFFFFFFFFF#64 0x5000000000000000#64
  | .readReg _ => readRow 0x8000#16 0x0000#16
  | .readBuf _ => readRow 0x8000#16 0x8000#16

def Statement (i : Instr) : Prop := i.wellFormed = true → fits i (encode i)

theorem nop : Statement .nop := fun _ => by
  show formatN 0x0#4 &&& _ = _
  decide

/-- Masking a concatenation masks its parts. -/
theorem append_masked {m n : Nat} {a c e : BitVec m} {b d f : BitVec n} (hi : a &&& c = e) (lo : b &&& d = f) :
    (a ++ b) &&& (c ++ d) = e ++ f := by
  subst hi lo
  apply BitVec.eq_of_getLsbD_eq
  intro i _
  simp only [BitVec.getLsbD_and, BitVec.getLsbD_append]
  split <;> simp

theorem config (w h : Nat) (trav : Traversal) (bypass : Bool) : Statement (.config w h trav bypass) := fun _ =>
  have fixed : (0x1#4 ++ 0#26 ++ BitVec.ofBool bypass ++ travBit trav) &&& (0xF#4 ++ 0x3FFFFFF#26 ++ 0#1 ++ 0#1) =
      (0x1#4 ++ 0#26 ++ 0#1 ++ 0#1 : BitVec 32) := by cases bypass <;> cases trav <;> decide
  append_masked (append_masked (append_masked (append_masked fixed (BitVec.zero_and (x := 0x7F#7)))
    BitVec.and_zero) (BitVec.zero_and (x := 0x7F#7))) BitVec.and_zero

theorem profile (sel : Nat) : Statement (.profile sel) := fun _ =>
  have fixed : (0x2#4 ++ 0#52) &&& (0xF#4 ++ 0xFFFFFFFFFFFFF#52) = (0x2#4 ++ 0#52 : BitVec 56) := by decide
  append_masked fixed BitVec.and_zero

theorem start : Statement .start := fun _ => by
  show formatN 0x3#4 &&& _ = _
  decide

theorem pixel (r g b : Nat) : Statement (.pixel r g b) := fun _ =>
  have fixed : (0x4#4 ++ 0#12) &&& (0xF#4 ++ 0xFFF#12) = (0x4#4 ++ 0#12 : BitVec 16) := by decide
  append_masked (append_masked (append_masked fixed BitVec.and_zero) BitVec.and_zero) BitVec.and_zero

theorem clear : Statement .clear := fun _ => by
  show formatN 0x5#4 &&& _ = _
  decide

theorem readReg (n : Nat) : Statement (.readReg n) := fun _ =>
  append_masked (BitVec.zero_and (x := 1#1)) BitVec.and_zero

theorem readBuf (a : Nat) : Statement (.readBuf a) := fun _ =>
  append_masked (BitVec.and_self (x := 1#1)) BitVec.and_zero

end Sys2Proof.Laws.TableRow
end

