-- ==== Sys2Proof/Laws/Step.lean ====
section
/-! SUPPORT. What one step can do, and the field lemma of the decoder. -/

namespace Sys2Proof.Machine

/-- A field of a word is the word's number shifted right and cut to the field's width. -/
theorem fieldOf_eq {n : Nat} (w : BitVec n) (lo len : Nat) : fieldOf w lo len = w.toNat / 2 ^ lo % 2 ^ len := by
  simp [fieldOf, BitVec.extractLsb'_toNat, Nat.shiftRight_eq_div_pow]

/-- Everything a step can do: wait, reset, perform a decoded instruction, or treat an illegal word. -/
theorem step_cases (s : State) :
    (s.inbox = [] ∧ step s = .next s) ∨
    (∃ p rest, s.inbox = .reset p :: rest ∧ step s = .next (hostReset p { s with inbox := rest })) ∨
    (∃ q rest i, s.inbox = .request q :: rest ∧ decode q = .legal i ∧ step s = exec i { s with inbox := rest }) ∨
    (∃ q rest c, s.inbox = .request q :: rest ∧ decode q = .illegal c ∧
      step s = illegalWord c { s with inbox := rest }) := by
  cases h : s.inbox with
  | nil => exact .inl ⟨rfl, by simp [step, nextOp, h]⟩
  | cons op rest =>
    cases op with
    | reset p => exact .inr (.inl ⟨p, rest, rfl, by simp [step, nextOp, h]⟩)
    | request q =>
      cases hd : decode q with
      | legal i => exact .inr (.inr (.inl ⟨q, rest, i, rfl, hd, by simp [step, nextOp, h, hd]⟩))
      | illegal c => exact .inr (.inr (.inr ⟨q, rest, c, rfl, hd, by simp [step, nextOp, h, hd]⟩))

end Sys2Proof.Machine
end

