-- ==== Sys2Proof/Tests/Slice0.lean ====
section
/-! SUPPORT. Tests. Expected values are those of spec/ (the examples of the rules and 95_test_vectors.md, named at each
group), never the model's own answer; and, for each statement with hypotheses, a witness that meets them. -/

namespace Sys2Proof.Tests

open Sys2Proof Sys2Proof.Machine

/-! ### Well-formedness: each check refuses an operand one above its field (30_encoding.md R73 to R75, R85, R87) -/

theorem test_wf_config_w : (Instr.config 512 1 .columnMajor false).wellFormed = false := by decide
theorem test_wf_config_h : (Instr.config 1 512 .columnMajor false).wellFormed = false := by decide
theorem test_wf_profile : (Instr.profile 256).wellFormed = false := by decide
theorem test_wf_pixel_r : (Instr.pixel 65536 0 0).wellFormed = false := by decide
theorem test_wf_pixel_g : (Instr.pixel 0 65536 0).wellFormed = false := by decide
theorem test_wf_pixel_b : (Instr.pixel 0 0 65536).wellFormed = false := by decide
theorem test_wf_readReg : (Instr.readReg 32768).wellFormed = false := by decide
theorem test_wf_readBuf : (Instr.readBuf 32768).wellFormed = false := by decide
theorem test_wf_accepts : (Instr.config 511 511 .rowMajor true).wellFormed = true ∧
    (Instr.pixel 65535 65535 65535).wellFormed = true ∧ (Instr.profile 255).wellFormed = true ∧
    (Instr.readReg 32767).wellFormed = true ∧ (Instr.readBuf 32767).wellFormed = true := by decide

/-! ### Decoding: words written out from the formats (30_encoding.md R72 to R75, R85, R89) -/

theorem test_decode_nop : decode (.command 0x0000000000000000#64) = .legal .nop := by decide
theorem test_decode_config : decode (.command 0x1000000300800078#64) = .legal (.config 120 128 .rowMajor true) := by
  decide
theorem test_decode_profile : decode (.command 0x20000000000000FF#64) = .legal (.profile 255) := by decide
theorem test_decode_start : decode (.command 0x3000000000000000#64) = .legal .start := by decide
theorem test_decode_pixel : decode (.command 0x4000000300020001#64) = .legal (.pixel 1 2 3) := by decide
theorem test_decode_clear : decode (.command 0x5000000000000000#64) = .legal .clear := by decide
theorem test_decode_readReg : decode (.read 0x0005#16) = .legal (.readReg 5) := by decide
theorem test_decode_readBuf : decode (.read 0x877F#16) = .legal (.readBuf 1919) := by decide

/-- 95_test_vectors.md, Encoding and decode: the illegal words. -/
theorem test_decode_illegal :
    decode (.command 0x0000000000000001#64) = .illegal .eRsvd ∧
    decode (.command 0x1000000000000200#64) = .illegal .eRsvd ∧
    decode (.command 0x1000010000000000#64) = .illegal .eRsvd ∧
    decode (.command 0x2000000000000100#64) = .illegal .eRsvd ∧
    decode (.command 0x4001000300020001#64) = .illegal .eRsvd ∧
    decode (.command 0x5000000000000001#64) = .illegal .eRsvd ∧
    decode (.command 0x6000000000000000#64) = .illegal .eOpc ∧
    decode (.command 0xF000000000000001#64) = .illegal .eOpc := by decide

/-- 30_encoding.md R89: the encoder writes the rule's words. -/
theorem test_encode :
    encode (.config 120 128 .columnMajor false) = .command 0x1000000000800078#64 ∧
    encode (.config 3 3 .rowMajor false) = .command 0x1000000100030003#64 ∧
    encode (.config 3 3 .columnMajor true) = .command 0x1000000200030003#64 ∧
    encode (.profile 1) = .command 0x2000000000000001#64 ∧
    encode (.pixel 1 2 3) = .command 0x4000000300020001#64 ∧
    encode (.readBuf 1919) = .read 0x877F#16 := by decide

theorem test_table_word : decodeTableWord 64 0x3000000000000000 = some .start ∧
    decodeTableWord 16 0x877F = some (.readBuf 1919) ∧ decodeTableWord 64 0x6000000000000000 = none := by decide

/-! ### The assembler (30_encoding.md R87, R88) -/

theorem test_assemble_line : assemble "  config w=3, h=2, trav=row, bypass=1 ; a frame".toList =
    .op (.request (.command 0x1000000300020003#64)) := by decide
theorem test_assemble_errors : assemble "CONFIG w=512, h=1".toList = .outOfRange ∧
    assemble "PIXEL 1, 2".toList = .badLine ∧ assemble " ; nothing".toList = .nothing := by decide
theorem test_assemble_pseudo : assemble "WHITE".toList = .op (.request (.command 0x4000FFFFFFFFFFFF#64)) ∧
    assemble "gray 0x9C40".toList = .op (.request (.command 0x40009C409C409C40#64)) ∧
    assemble "RESET".toList = .op (.reset none) := by decide

/-! ### States to test on: parameters 3×3, so that a step is small -/

/-- A block with W_MAX = H_MAX = 3, right after reset. -/
def small : State := State.afterReset ⟨3, 3⟩ 0

/-- It in IDLE, configured for a 2×2 frame. -/
def configured : State := applyConfig 2 2 .columnMajor false small

/-- It in ERROR with code 4. -/
def failed : State := raiseError .eNotRun small

/-- It in RUN in a 2×2 frame, the line buffer and BUF all 0, the next pixel at (x, y). -/
def frameAt (x y : Nat) (trav : Traversal) (bypass : Bool) : State :=
  { configured with
    mode := .run, trav := trav, bypass := bypass, buf := clearedBuf, x := BitVec.ofNat 9 x, y := BitVec.ofNat 9 y,
    pixcount := BitVec.ofNat 18 (y * 2 + x) }

/-- It at DONE after a 2×2 frame of White. -/
def finished : State := { frameAt 0 2 .columnMajor false with mode := .done }

/-- A property of the state an instruction answers, false where it answers none. -/
def holdsAfter (o : Host.Outcome State Fault Refusal) (p : State → Bool) : Bool :=
  match o with
  | .next t => p t
  | .fault _ => false
  | .refused _ => false

/-! ### One instruction each (40_control.md, 41_dither.md, 43_readout.md and 95_test_vectors.md) -/

theorem test_nop : holdsAfter (exec .nop (frameAt 1 0 .columnMajor false))
    (fun t => decide (t = frameAt 1 0 .columnMajor false)) = true := by decide

/-- 40_control.md R102's example. -/
theorem test_config : holdsAfter (exec (.config 3 2 .rowMajor false) small) (fun t =>
    t.cfgW = 3 && t.cfgH = 2 && t.trav = .rowMajor && t.mode = .idle && regValue 4 t = 1) = true := by decide

/-- E_DIMS one above W_MAX. -/
theorem test_config_dims : holdsAfter (exec (.config 4 1 .columnMajor false) small)
    (fun t => regValue 0 t = 0x53) = true := by decide

/-- 40_control.md R104's example, at the default parameters. -/
theorem test_profile : holdsAfter (exec (.profile 1) State.reset)
    (fun t => regValue 1 t = 0x008000F6 && regValue 4 t = 3936) = true := by decide

/-- 95_test_vectors.md S5, and the vector with W_MAX = 120. -/
theorem test_profile_errors : holdsAfter (exec (.profile 2) State.reset) (fun t => regValue 0 t = 0x63) = true ∧
    holdsAfter (exec (.profile 1) (State.afterReset ⟨120, 128⟩ 0)) (fun t => regValue 0 t = 0x53) = true := by decide

theorem test_start : holdsAfter (exec .start finished) (fun t =>
    regValue 0 t = 0x01 && regPos t = 0 && memRead 0 t = 0 && t.errNxt.length = 3) = true := by decide

/-- E_NOCFG right after reset. -/
theorem test_start_unconfigured : holdsAfter (exec .start small) (fun t => regValue 0 t = 0x73) = true := by decide

theorem test_clear : holdsAfter (exec .clear failed) (fun t => regValue 0 t = 0) = true ∧
    holdsAfter (exec .clear (frameAt 1 0 .columnMajor false)) (fun t => regValue 0 t = 1 && regPos t = 1) = true := by
  decide

/-- 95_test_vectors.md, the 2×2 frame's first pixel: GRAY 40000 is White with error -25535. -/
theorem test_pixel_first : holdsAfter (exec (.pixel 40000 40000 40000) (frameAt 0 0 .columnMajor false)) (fun t =>
    rowAt t.errCur 1 = Rgb.all (-178745) && rowAt t.errNxt 0 = Rgb.all (-127675) &&
      rowAt t.errNxt 1 = Rgb.all (-25535) && memRead 0 t = 0 && regPos t = 1) = true := by decide

/-- The same frame's second pixel: GRAY 20000 on that line buffer is Black, bit 2, and the rows move up. -/
theorem test_pixel_second : holdsAfter (exec (.pixel 20000 20000 20000)
    { frameAt 1 0 .columnMajor false with
      errCur := [Rgb.all 0, Rgb.all (BitVec.ofInt 21 (-178745)), Rgb.all 0]
      errNxt := [Rgb.all (BitVec.ofInt 21 (-127675)), Rgb.all (BitVec.ofInt 21 (-25535)), Rgb.all 0] }) (fun t =>
    rowAt t.errCur 0 = Rgb.all (-101188) && rowAt t.errCur 1 = Rgb.all 18610 &&
      rowAt t.errNxt 0 = Rgb.all 0 && memRead 0 t = 0x20 && t.y = 1 && t.x = 0) = true := by decide

/-- 95_test_vectors.md, Reads: CONFIG of a 3×3 row-major bypass frame; a reserved number. -/
theorem test_readReg : holdsAfter (exec (.readReg 1) (applyConfig 3 3 .rowMajor true small))
    (fun t => t.responses = [0x30030003]) = true ∧
    holdsAfter (exec (.readReg 32767) small) (fun t => t.responses = [0]) = true := by decide

/-- A byte below BUF_BYTES = 2, and the first address above BUF. -/
theorem test_readBuf : holdsAfter (exec (.readBuf 1) { finished with buf := ⟨.zeros, [(1, 0x80)]⟩ })
    (fun t => t.responses = [0x80]) = true ∧
    holdsAfter (exec (.readBuf 2) small) (fun t => t.responses = [0]) = true := by decide

/-- 41_dither.md R124's examples with 95_test_vectors.md's: truncation toward zero, and both clamps. -/
theorem test_adjusted : adjusted ⟨100, 1, 65000⟩ ⟨-17, -28, 16000⟩ = ⟨99, 0, 65535⟩ ∧
    adjusted ⟨100, 0, 32768⟩ ⟨17, -229369, -229369⟩ = ⟨101, 0, 18433⟩ := by decide

/-- 42_pack.md R159 and 95_test_vectors.md, Packer. -/
theorem test_index : bitIndex .columnMajor 120 128 1 5 = 133 ∧ bitIndex .rowMajor 120 128 1 5 = 601 ∧
    setBit 0 133 true = 0x04 ∧ setBit 0 601 true = 0x40 := by decide

/-! ### Steps -/

theorem test_step_fetches : holdsAfter (step (State.reset.withFetchWord 64 0x2000000000000001))
    (fun t => regValue 4 t = 3936 && t.inbox = []) = true ∧
    holdsAfter (step (State.reset.withFetchWord 16 0x0005)) (fun t => t.responses = [0x008000F6]) = true := by decide

/-- 95_test_vectors.md, ERROR 0x43: an illegal word is ignored; elsewhere it is E_OPC. -/
theorem test_step_illegal : holdsAfter (step (failed.withFetchWord 64 0x6000000000000000))
    (fun t => regValue 0 t = 0x43) = true ∧
    holdsAfter (step (small.withFetchWord 64 0x6000000000000000)) (fun t => regValue 0 t = 0x13) = true := by decide

/-- 60_exceptions.md R189: reset wins over the word being presented. -/
theorem test_step_reset : holdsAfter (step { failed with inbox := [.reset (some (.command 0x3000000000000000#64))] })
    (fun t => regValue 0 t = 0 && t.inbox = [] && t.resets = 1) = true := by decide

/-! ### Witnesses: the states meet the invariants -/

theorem small_inv : small.Inv := by constructor <;> decide

theorem configured_inv : configured.Inv := by constructor <;> decide

theorem failed_inv : failed.Inv := by constructor <;> decide

theorem frameAt_inv (x y : Nat) (trav : Traversal) (bypass : Bool) (hx : x < 2) (hy : y < 2) :
    (frameAt x y trav bypass).Inv := by
  cases trav <;> cases bypass <;> interval_cases x <;> interval_cases y <;> constructor <;> decide

theorem finished_inv : finished.Inv := by constructor <;> decide

/-- A line buffer of zeros is within every bound. -/
theorem lineBounded_of_zero {s : State} (hc : s.errCur = zeroRow s) (hn : s.errNxt = zeroRow s) : s.LineBounded := by
  have within : ∀ {b : Int} {row : Row} (i : Nat), 0 ≤ b → row = zeroRow s → entryWithin b (rowAt row i) := by
    rintro b row i hb rfl
    simp [entryWithin, Rgb.all, hb]
  refine ⟨fun _ i => within i ?_ hc, fun _ i => within i ?_ hn, fun i => within i (by decide) hc,
    fun i => within i (by decide) hn, fun _ _ i => by simp [hn], fun _ i => by simp [hc, hn]⟩
  · unfold curWeight
    split <;> decide
  · unfold nxtWeight
    split <;> split <;> split <;> decide

theorem frameAt_lineBounded (x y : Nat) (trav : Traversal) (bypass : Bool) : (frameAt x y trav bypass).LineBounded :=
  lineBounded_of_zero rfl rfl

/-- A cleared BUF holds no bit of a pixel not supplied. -/
theorem onlySupplied_of_cleared {s : State} (h : s.buf = clearedBuf) : s.OnlySuppliedBits := by
  intro _ k hk
  simp [bitOf, memRead, h] at hk

theorem frameAt_onlySupplied (x y : Nat) (trav : Traversal) (bypass : Bool) :
    (frameAt x y trav bypass).OnlySuppliedBits := onlySupplied_of_cleared rfl

/-! ### Witnesses: one for each statement with hypotheses, and for its clauses -/

/-- DecodeFollowsOpcodeThenReservedBits: the least illegal opcode, a reserved bit, and the greatest legal one. -/
theorem witness_decode_clauses :
    (0x6000000000000000#64).toNat / 2 ^ 60 ≥ 6 ∧
    ((0x1000000000000200#64).toNat / 2 ^ 60 < 6 ∧ 0x1000000000000200#64 &&& reservedMask 1 ≠ 0) ∧
    ((0x5000000000000000#64).toNat / 2 ^ 60 < 6 ∧ 0x5000000000000000#64 &&& reservedMask 5 = 0) ∧
    decode (.command 0x5000000000000000#64) = .legal .clear := by decide

/-- EveryReadRequestIsLegal: the last register number and the first BUF address. -/
theorem witness_read_clauses : (0x7FFF#16).toNat < 2 ^ 15 ∧ (0x8000#16).toNat ≥ 2 ^ 15 := by decide

/-- DecodeOfEncodeIsIdentity, LegalWordsAreEncodings. -/
theorem witness_roundtrip : (Instr.config 511 511 .rowMajor true).wellFormed = true ∧
    decode (.command 0x1000000301FF01FF#64) = .legal (.config 511 511 .rowMajor true) := by decide

/-- StepRunsDecodedInstruction. -/
theorem witness_step_legal : (small.withFetchWord 64 0x3000000000000000).inbox =
    .request (.command 0x3000000000000000#64) :: [] ∧
    decode (.command 0x3000000000000000#64) = .legal .start := by decide

/-- StepWithoutOperationWaits. -/
theorem witness_step_waits : State.reset.inbox = [] := by decide

/-- DispatchChecksInOrder: a state in ERROR and one outside it, each with a word for each clause. -/
theorem witness_dispatch :
    (failed.withFetchWord 64 0x5000000000000000).mode = .error ∧
    (failed.withFetchWord 64 0x3000000000000000).mode = .error ∧
    (0x3000000000000000#64 : CmdWord) ≠ 0x5000000000000000#64 ∧
    (small.withFetchWord 64 0x6000000000000000).mode ≠ .error ∧
    (small.withFetchWord 64 0x6000000000000000).inbox = .request (.command 0x6000000000000000#64) :: [] ∧
    (small.withFetchWord 64 0x5000000000000001).inbox = .request (.command 0x5000000000000001#64) :: [] ∧
    (0x5000000000000001#64).toNat / 2 ^ 60 < 6 ∧
    (0x5000000000000001#64 : CmdWord) &&& reservedMask ((0x5000000000000001#64).toNat / 2 ^ 60) ≠ 0 ∧
    (0x3000000000000000#64 : CmdWord) &&& reservedMask ((0x3000000000000000#64).toNat / 2 ^ 60) = 0 := by decide

/-- ErrorStateIgnoresAllButClear: a word, a read, and a sequence without CLEAR. -/
theorem witness_error_ignores : failed.mode = .error ∧
    (failed.withFetchWord 64 0x3000000000000000).inbox = .request (.command 0x3000000000000000#64) :: [] ∧
    (failed.withFetchWord 16 0xFFFF).inbox = .request (.read 0xFFFF#16) :: [] ∧
    (∀ i ∈ [Instr.start, Instr.readReg 0], i ≠ .clear) := by decide

/-- ResetInputReinitialises: a reset with another behind it. -/
theorem witness_reset : ({ failed with inbox := [.reset none, .reset none] } : State).inbox =
    .reset none :: [.reset none] := by decide

/-- NopHasNoEffect and ClearLeavesErrorOnly: words with a reserved bit. -/
theorem witness_reserved : (0x0000000000000001#64).toNat / 2 ^ 60 = 0 ∧ (0x0000000000000001#64 : CmdWord) ≠ 0 ∧
    (0x5800000000000000#64).toNat / 2 ^ 60 = 5 ∧ (0x5800000000000000#64 : CmdWord) ≠ 0x5000000000000000#64 ∧
    failed.mode = .error ∧ small.mode ≠ .error := by decide

/-- ConfigSetsConfiguration: each clause at a boundary of its range, W_MAX = H_MAX = 3. -/
theorem witness_config : (Instr.config 3 3 .rowMajor true).wellFormed = true ∧
    (Instr.config 4 1 .rowMajor true).wellFormed = true ∧ failed.mode = .error ∧
    (frameAt 0 0 .columnMajor false).mode = .run ∧ small.mode = .idle ∧ finished.mode = .done ∧
    4 > small.params.wMax ∧ 3 ≤ small.params.wMax ∧ 3 ≤ small.params.hMax := by decide

/-- ProfileSelectsFixedTarget: both profiles at the default parameters, an unknown selector, and W_MAX = 245. -/
theorem witness_profile : (Instr.profile 1).wellFormed = true ∧ (Instr.profile 2).wellFormed = true ∧
    State.reset.mode = .idle ∧ 246 ≤ State.reset.params.wMax ∧ 128 ≤ State.reset.params.hMax ∧
    246 > (State.afterReset ⟨245, 128⟩ 0).params.wMax ∧ (State.afterReset ⟨245, 128⟩ 0).mode = .idle := by decide

/-- StartBeginsFrame: each clause. -/
theorem witness_start : small.mode = .idle ∧ small.cfgW = 0 ∧ finished.mode = .done ∧ finished.cfgW ≠ 0 ∧
    finished.cfgH ≠ 0 ∧ configured.mode = .idle ∧ configured.cfgW ≠ 0 ∧ configured.cfgH ≠ 0 := by decide

/-- PixelOutsideRunIsRefusedByError. -/
theorem witness_pixel_refused : small.mode = .idle ∧ finished.mode = .done ∧ failed.mode = .error := by decide

/-- PixelPacksItsBit, PixelDecidesExactlyOneBit, PixelDiffusesItsError, PixelAdvancesInRasterOrder and
ConfigurationFrozenInRun: within a row of two, with a row below. -/
theorem witness_pixel_in_row :
    let s := frameAt 0 0 .columnMajor false
    s.Inv ∧ s.LineBounded ∧ s.OnlySuppliedBits ∧ s.mode = .run ∧ s.bypass = false ∧
      s.x.toNat + 1 < s.cfgW.toNat ∧ s.y.toNat + 1 < s.cfgH.toNat :=
  ⟨frameAt_inv 0 0 _ _ (by decide) (by decide), frameAt_lineBounded .., frameAt_onlySupplied _ _ _ _, by decide⟩

/-- The same statements at the end of the frame's last row. -/
theorem witness_pixel_at_end :
    let s := frameAt 1 1 .rowMajor false
    s.Inv ∧ s.LineBounded ∧ s.OnlySuppliedBits ∧ s.mode = .run ∧ s.bypass = false ∧
      s.x.toNat + 1 = s.cfgW.toNat ∧ s.y.toNat + 1 = s.cfgH.toNat :=
  ⟨frameAt_inv 1 1 _ _ (by decide) (by decide), frameAt_lineBounded .., frameAt_onlySupplied _ _ _ _, by decide⟩

/-- BypassPixelLeavesLineBuffer, and the bypass clauses of the packing statements, within and at the end of a row. -/
theorem witness_pixel_bypass :
    let s := frameAt 0 0 .columnMajor true
    let t := frameAt 1 0 .columnMajor true
    s.Inv ∧ s.OnlySuppliedBits ∧ s.mode = .run ∧ s.bypass = true ∧ s.x.toNat + 1 < s.cfgW.toNat ∧
      t.Inv ∧ t.OnlySuppliedBits ∧ t.mode = .run ∧ t.bypass = true ∧ t.x.toNat + 1 = t.cfgW.toNat :=
  ⟨frameAt_inv 0 0 _ _ (by decide) (by decide), frameAt_onlySupplied _ _ _ _, by decide, by decide, by decide,
    frameAt_inv 1 0 _ _ (by decide) (by decide), frameAt_onlySupplied _ _ _ _, by decide⟩

/-- ReadRegReturnsRegister: legal parameters, and a PROFILE that is accepted. -/
theorem witness_readReg : State.reset.params.legal ∧ State.reset.mode ≠ .error ∧
    holdsAfter (exec (.profile 0) State.reset) (fun t => t.mode = .idle) = true := by decide

/-- ReadBufReturnsByte: the last byte of BUF and the first address above it. -/
theorem witness_readBuf : 1 < (small.params.wMax * small.params.hMax + 7) / 8 ∧
    2 ≥ (small.params.wMax * small.params.hMax + 7) / 8 := by decide

/-- ReadsRepeat. -/
theorem witness_reads : (∃ n, Instr.readReg 4 = .readReg n) ∧ (∃ a, Instr.readBuf 4 = .readBuf a) :=
  ⟨⟨4, rfl⟩, 4, rfl⟩

/-- QuantisationErrorIsBounded: a value of each colour, one off the threshold. -/
theorem witness_quantError : nearest (adjusted ⟨32767, 32767, 32768⟩ (Rgb.all 0)) = .black ∧
    nearest (adjusted ⟨32767, 32768, 32768⟩ (Rgb.all 0)) = .white := by decide

/-- ClassifyAgreesOnPalette: both palette colours. -/
theorem witness_palette : (⟨0, 0, 0⟩ : Rgb Nat) = Rgb.all 0 ∧ (⟨65535, 65535, 65535⟩ : Rgb Nat) = Rgb.all 65535 := by
  decide

/-- BitBufferLengthIsCeiling and StatusValuesOfEachMode: each premise. -/
theorem witness_lengths_and_status :
    (applyConfig 120 128 .columnMajor false small).cfgW = 120 ∧ (applyConfig 246 128 .columnMajor false small).cfgW = 246 ∧
    (applyConfig 3 3 .columnMajor false small).cfgH = 3 ∧ small.Inv ∧ failed.Inv ∧ finished.Inv ∧
    small.mode = .idle ∧ failed.mode = .error ∧ finished.mode = .done :=
  ⟨by decide, by decide, by decide, small_inv, failed_inv, finished_inv, by decide⟩

/-- BitIndexIsBijective: the last pixel of the profile target. -/
theorem witness_bitIndex : 119 < 120 ∧ 127 < 128 ∧ 15359 < 120 * 128 := by decide

/-- StepKeepsInvariant, NoStepStops, StepKeepsLineBufferBounded, StepKeepsOnlySuppliedBits and StepKeepsParameters: a
frame's pixel is the next operation. -/
theorem witness_step_keeps :
    let s := (frameAt 1 1 .columnMajor false).withFetchWord 64 0x4000000000000000
    s.Inv ∧ s.LineBounded ∧ s.OnlySuppliedBits ∧ holdsAfter (step s) (fun t => t.mode = .done) = true :=
  ⟨by constructor <;> decide, lineBounded_of_zero rfl rfl, onlySupplied_of_cleared rfl, by decide⟩

/-- ModeChangesOnlyByTable, ErrorsArePrecise and FirstErrorIsKept: a PIXEL in IDLE, an ignored word and a CLEAR in ERROR. -/
theorem witness_errors :
    (small.mode ≠ .error ∧
      holdsAfter (step (small.withFetchWord 64 0x4000000000000000)) (fun t => t.mode = .error) = true) ∧
    holdsAfter (step (failed.withFetchWord 64 0x3000000000000000)) (fun t => t.mode = .error) = true ∧
    holdsAfter (step (failed.withFetchWord 64 0x5000000000000000)) (fun t => t.mode = .idle) = true := by decide

/-- FirstErrorIsKept's invariant, in ERROR with an operation pending. -/
theorem witness_first_error : (failed.withFetchWord 64 0x3000000000000000).Inv := by constructor <;> decide

/-- ConfigurationFrozenInRun: an operation that is no reset. -/
theorem witness_frozen :
    let s := (frameAt 0 0 .columnMajor false).withFetchWord 64 0x1000000000010001
    s.Inv ∧ s.mode = .run ∧ nextIsReset s = false ∧ holdsAfter (step s) (fun t => t.mode = .error) = true :=
  ⟨by constructor <;> decide, by decide⟩

/-- BufChangesOnlyByPixelStartReset: a START that clears BUF. -/
theorem witness_buf_changes : holdsAfter (step (configured.withFetchWord 64 0x3000000000000000))
    (fun t => decide (t.buf ≠ configured.buf)) = true := by decide

/-- FrameCompletesAtLastPixel, NextPixelIsTheNthOfTheRaster, LineBufferHoldsKernelSum and
FrameContentIsTheDitheredCanvas: a configured block, a whole frame of 2×2 and one pixel fewer. -/
theorem witness_frame : configured.Inv ∧ configured.mode = .idle ∧ configured.cfgW ≠ 0 ∧ configured.cfgH ≠ 0 ∧
    configured.bypass = false ∧
    (List.replicate 4 (Rgb.all 40000)).length = configured.cfgW.toNat * configured.cfgH.toNat ∧
    (List.replicate 3 (Rgb.all 40000)).length < configured.cfgW.toNat * configured.cfgH.toNat :=
  ⟨configured_inv, by decide⟩

/-- FrameContentIsTheDitheredCanvas, its last clause: a CONFIG at DONE, in a sequence without START. -/
theorem witness_no_start : (∀ i ∈ [Instr.config 3 3 .rowMajor false], i ≠ .start) ∧
    holdsAfter (execAll [.config 3 3 .rowMajor false] finished) (fun u => u.mode = .idle) = true := by decide

/-- FrameIsFunctionOfPixels: two states that differ, and two sequences with the same pixels, one with a NOP and a read
between them. -/
theorem witness_frame_function :
    let s' : State := { finished with trav := .columnMajor }
    let ps := pixels (List.replicate 4 (Rgb.all 40000))
    let l' := .nop :: .readReg 0 :: ps
    configured.Inv ∧ s'.Inv ∧ configured.mode = .idle ∧ s'.mode = .done ∧ configured.cfgW = s'.cfgW ∧
      configured.cfgH = s'.cfgH ∧ configured.trav = s'.trav ∧ configured.bypass = s'.bypass ∧
      configured.cfgW ≠ 0 ∧ configured.cfgH ≠ 0 ∧ (∀ i ∈ ps, frameInstr i = true) ∧
      (∀ i ∈ l', frameInstr i = true) ∧ pixelsOf ps = pixelsOf l' ∧
      (pixelsOf ps).length = configured.cfgW.toNat * configured.cfgH.toNat :=
  ⟨configured_inv, finished_inv, by decide⟩

end Sys2Proof.Tests
end

/-! The configuration as one value, what keeps it, and that RUN freezes it (10_state.md R28). -/

namespace Sys2Proof.Machine

/-- The configuration: CFG_W, CFG_H, TRAV and BYPASS (10_state.md R24, R25). -/
def State.configuration (s : State) : BitVec 9 × BitVec 9 × Traversal × Bool := (s.cfgW, s.cfgH, s.trav, s.bypass)

theorem configuration_eq_iff (s t : State) :
    t.configuration = s.configuration ↔
      t.cfgW = s.cfgW ∧ t.cfgH = s.cfgH ∧ t.trav = s.trav ∧ t.bypass = s.bypass := by
  simp [State.configuration]

/-! ### The updates that keep the configuration -/

@[simp] theorem raiseError_configuration (c : ErrCode) (s : State) :
    (raiseError c s).configuration = s.configuration := rfl
@[simp] theorem clearError_configuration (s : State) : (clearError s).configuration = s.configuration := rfl
@[simp] theorem beginFrame_configuration (s : State) : (beginFrame s).configuration = s.configuration := rfl
@[simp] theorem respond_configuration (v : RegValue) (s : State) :
    (respond v s).configuration = s.configuration := rfl
@[simp] theorem memWrite_configuration (a : Nat) (v : Byte) (s : State) :
    (memWrite a v s).configuration = s.configuration := rfl
@[simp] theorem diffuse_configuration (q : Rgb Int) (s : State) :
    (diffuse q s).configuration = s.configuration := rfl
@[simp] theorem countPixel_configuration (s : State) : (countPixel s).configuration = s.configuration := rfl
@[simp] theorem endRow_configuration (s : State) : (endRow s).configuration = s.configuration := rfl
@[simp] theorem endFrame_configuration (s : State) : (endFrame s).configuration = s.configuration := by
  simp [State.configuration]

@[simp] theorem advance_configuration (s : State) : (advance s).configuration = s.configuration := by
  rcases advance_cases s with ⟨_, h⟩ | ⟨_, h⟩ <;> simp [h]

/-! ### The operations that keep the configuration, in every STATE -/

theorem pixelBit_configuration {p : Rgb Nat} {s t : State} {bit : Bool} (h : pixelBit p s = .ok (bit, t)) :
    t.configuration = s.configuration := by
  rcases pixelBit_cases h with ⟨_, _, rfl⟩ | ⟨_, _, _, _, _, rfl⟩
  · rfl
  · exact diffuse_configuration ..

theorem pack_configuration {bit : Bool} {s t : State} (h : pack bit s = .ok t) :
    t.configuration = s.configuration := by
  obtain ⟨_, rfl⟩ := pack_cases h
  exact memWrite_configuration ..

theorem takePixel_configuration {p : Rgb Nat} {s t : State} (h : takePixel p s = .next t) :
    t.configuration = s.configuration := by
  obtain ⟨bit, dithered, packed, hbit, hpack, rfl⟩ := takePixel_cases h
  calc (advance packed).configuration = packed.configuration := advance_configuration packed
    _ = dithered.configuration := pack_configuration hpack
    _ = s.configuration := pixelBit_configuration hbit

theorem execPixel_configuration {r g b : Nat} {s t : State} (h : execPixel r g b s = .next t) :
    t.configuration = s.configuration := by
  rcases execPixel_cases h with ⟨_, rfl⟩ | ⟨_, rfl⟩ | ⟨_, h⟩
  · rfl
  · rfl
  · exact takePixel_configuration h

theorem execStart_configuration {s t : State} (h : execStart s = .next t) : t.configuration = s.configuration := by
  rcases execStart_cases h with ⟨_, rfl⟩ | ⟨_, rfl⟩ | ⟨_, ⟨_, rfl⟩ | ⟨_, rfl⟩⟩ <;> simp

theorem execClear_configuration {s t : State} (h : execClear s = .next t) : t.configuration = s.configuration := by
  rcases execClear_cases h with ⟨_, rfl⟩ | ⟨_, rfl⟩ <;> simp

theorem illegalWord_configuration {c : ErrCode} {s t : State} (h : illegalWord c s = .next t) :
    t.configuration = s.configuration := by
  rcases illegalWord_cases h with ⟨_, rfl⟩ | ⟨_, rfl⟩ <;> simp

/-! ### CONFIG and PROFILE in RUN (40_control.md R102, R104) -/

theorem execConfig_run {s : State} (hrun : s.mode = .run) (w h : Nat) (trav : Traversal) (bypass : Bool) :
    execConfig w h trav bypass s = .next (raiseError .eBusy s) := by
  simp [execConfig, unlessError_else, hrun]

theorem execProfile_run {s : State} (hrun : s.mode = .run) (sel : Nat) :
    execProfile sel s = .next (raiseError .eBusy s) := by
  simp [execProfile, unlessError_else, hrun]

/-! ### RUN freezes the configuration -/

/-- The two commands that write the configuration are refused in RUN; no other instruction writes it. -/
theorem exec_run_configuration {i : Instr} {s t : State} (hrun : s.mode = .run) (h : exec i s = .next t) :
    t.configuration = s.configuration := by
  cases i with
  | nop => rw [execNop_cases h]
  | config w h' trav bypass => cases (execConfig_run hrun w h' trav bypass).symm.trans h; rfl
  | profile sel => cases (execProfile_run hrun sel).symm.trans h; rfl
  | start => exact execStart_configuration h
  | pixel r g b => exact execPixel_configuration h
  | clear => exact execClear_configuration h
  | readReg n => cases h; rfl
  | readBuf a => cases h; rfl

theorem step_run_configuration {s t : State} (hrun : s.mode = .run) (hnr : nextIsReset s = false)
    (h : step s = .next t) : t.configuration = s.configuration := by
  rcases step_cases s with ⟨_, hs⟩ | ⟨p, rest, hin, _⟩ | ⟨q, rest, i, _, _, hs⟩ | ⟨q, rest, c, _, _, hs⟩
  case inl => cases hs.symm.trans h; rfl
  case inr.inl => simp [nextIsReset, hin] at hnr
  case inr.inr.inl => exact exec_run_configuration (s := { s with inbox := rest }) hrun (hs.symm.trans h)
  case inr.inr.inr => exact illegalWord_configuration (s := { s with inbox := rest }) (hs.symm.trans h)

/-- Settles O44: the position clause is the invariant's, the rest is `step_run_configuration` and E_BUSY. -/
theorem configurationFrozenInRun : Obligations.ConfigurationFrozenInRun := by
  intro s hinv hrun
  obtain ⟨hx, hy⟩ := hinv.run_position hrun
  exact ⟨hx, hy, fun t hnr h => (configuration_eq_iff s t).mp (step_run_configuration hrun hnr h),
    execConfig_run hrun, execProfile_run hrun⟩

end Sys2Proof.Machine

/-! The decoder of the command port by its three answers, the fields of a word as parts of its number, and that a
legal word is the encoding of the instruction it decodes to (30_encoding.md R80, R83); then the lines of R89. -/

namespace Sys2Proof.Machine

/-! ### The fields of a word -/

/-- The opcode is what remains of the word's number above its 60 low bits (30_encoding.md R70). -/
theorem opcode_eq_div (w : CmdWord) : fieldOf w 60 4 = w.toNat / 2 ^ 60 := by
  rw [fieldOf_eq]
  omega

theorem ofNat_fieldOf {n : Nat} (w : BitVec n) (lo len : Nat) :
    BitVec.ofNat len (fieldOf w lo len) = w.extractLsb' lo len := by
  rw [fieldOf, BitVec.ofNat_toNat, BitVec.setWidth_eq]

theorem getLsbD_eq_decide_div {n : Nat} (w : BitVec n) (k : Nat) :
    w.getLsbD k = decide (w.toNat / 2 ^ k % 2 = 1) := by
  rw [← BitVec.testBit_toNat, Nat.testBit_eq_decide_div_mod_eq]

theorem ofBool_getLsbD {n : Nat} (w : BitVec n) (k : Nat) : BitVec.ofBool (w.getLsbD k) = w.extractLsb' k 1 := by
  rw [BitVec.getLsbD_eq_extractLsb']
  generalize w.extractLsb' k 1 = b
  decide +revert

theorem travBit_travOfBit (b : Bool) : travBit (travOfBit b) = BitVec.ofBool b := by
  cases b <;> rfl

/-- TRAV's remainder as a traversal: 0 is column-major (30_encoding.md R73). -/
theorem travOfBit_decide_mod_two (n : Nat) :
    travOfBit (decide (n % 2 = 1)) = if n % 2 = 0 then .columnMajor else .rowMajor := by
  rcases Nat.mod_two_eq_zero_or_one n with h | h <;> simp [h, travOfBit]

/-- A field that the mask covers is 0 in a word with no bit of the mask (30_encoding.md R80). -/
theorem extractLsb'_eq_zero_of_masked {n : Nat} {w mask : BitVec n} (h : w &&& mask = 0) {lo len : Nat}
    (covered : mask.extractLsb' lo len = BitVec.allOnes len) : w.extractLsb' lo len = 0#len :=
  calc w.extractLsb' lo len
    _ = (w &&& mask).extractLsb' lo len := by rw [BitVec.extractLsb'_and, covered, BitVec.and_allOnes]
    _ = 0#len := by rw [h]; exact BitVec.extractLsb'_zero

/-! ### The decoder's tables as conditions on the opcode -/

theorem reservedMask_eq (opc : Nat) : reservedMask opc =
    if opc = 1 then 0x0FFFFFFCFE00FE00#64
    else if opc = 2 then 0x0FFFFFFFFFFFFF00#64
    else if opc = 4 then 0x0FFF000000000000#64
    else 0x0FFFFFFFFFFFFFFF#64 := by
  unfold reservedMask
  split <;> simp_all

/-- The instruction of each opcode with its operands as parts of the word's number (30_encoding.md R72 to R76). -/
theorem commandOf_eq (opc : Nat) (w : CmdWord) : commandOf opc w =
    if opc = 0 then .nop
    else if opc = 1 then
      .config (w.toNat % 2 ^ 9) (w.toNat / 2 ^ 16 % 2 ^ 9)
        (if w.toNat / 2 ^ 32 % 2 = 0 then .columnMajor else .rowMajor) (decide (w.toNat / 2 ^ 33 % 2 = 1))
    else if opc = 2 then .profile (w.toNat % 2 ^ 8)
    else if opc = 3 then .start
    else if opc = 4 then
      .pixel (w.toNat % 2 ^ 16) (w.toNat / 2 ^ 16 % 2 ^ 16) (w.toNat / 2 ^ 32 % 2 ^ 16)
    else .clear := by
  simp only [commandOf, fieldOf_eq, getLsbD_eq_decide_div, travOfBit_decide_mod_two, Nat.pow_zero, Nat.div_one]
  split <;> simp_all

/-! ### A word without reserved bits is rebuilt from its fields by its format -/

theorem formatN_of_fields {w : CmdWord} {opc : BitVec 4} (hopc : w.extractLsb' 60 4 = opc)
    (h : w &&& 0x0FFFFFFFFFFFFFFF#64 = 0) : formatN opc = w := by
  have low : w.extractLsb' 0 60 = 0#60 := extractLsb'_eq_zero_of_masked h (by decide)
  calc formatN opc
    _ = w.extractLsb' 60 4 ++ w.extractLsb' 0 60 := by rw [formatN, hopc, low]
    _ = w := BitVec.extractLsb'_append_extractLsb'

theorem formatC_of_fields {w : CmdWord} (hopc : w.extractLsb' 60 4 = 0x1#4) (h : w &&& 0x0FFFFFFCFE00FE00#64 = 0) :
    formatC (fieldOf w 0 9) (fieldOf w 16 9) (travOfBit (w.getLsbD 32)) (w.getLsbD 33) = w := by
  have above : w.extractLsb' 34 26 = 0#26 := extractLsb'_eq_zero_of_masked h (by decide)
  have middle : w.extractLsb' 25 7 = 0#7 := extractLsb'_eq_zero_of_masked h (by decide)
  have below : w.extractLsb' 9 7 = 0#7 := extractLsb'_eq_zero_of_masked h (by decide)
  calc formatC (fieldOf w 0 9) (fieldOf w 16 9) (travOfBit (w.getLsbD 32)) (w.getLsbD 33)
    _ = w.extractLsb' 60 4 ++ w.extractLsb' 34 26 ++ w.extractLsb' 33 1 ++ w.extractLsb' 32 1 ++
          w.extractLsb' 25 7 ++ w.extractLsb' 16 9 ++ w.extractLsb' 9 7 ++ w.extractLsb' 0 9 := by
      rw [formatC, travBit_travOfBit, ofBool_getLsbD, ofBool_getLsbD, ofNat_fieldOf, ofNat_fieldOf, hopc, above,
        middle, below]
    _ = w := by
      simp only [BitVec.extractLsb'_append_extractLsb'_eq_extractLsb']
      exact BitVec.extractLsb'_eq_self

theorem formatS_of_fields {w : CmdWord} (hopc : w.extractLsb' 60 4 = 0x2#4) (h : w &&& 0x0FFFFFFFFFFFFF00#64 = 0) :
    formatS (fieldOf w 0 8) = w := by
  have middle : w.extractLsb' 8 52 = 0#52 := extractLsb'_eq_zero_of_masked h (by decide)
  calc formatS (fieldOf w 0 8)
    _ = w.extractLsb' 60 4 ++ w.extractLsb' 8 52 ++ w.extractLsb' 0 8 := by
      rw [formatS, ofNat_fieldOf, hopc, middle]
    _ = w := by
      simp only [BitVec.extractLsb'_append_extractLsb'_eq_extractLsb']
      exact BitVec.extractLsb'_eq_self

theorem formatP_of_fields {w : CmdWord} (hopc : w.extractLsb' 60 4 = 0x4#4) (h : w &&& 0x0FFF000000000000#64 = 0) :
    formatP (fieldOf w 0 16) (fieldOf w 16 16) (fieldOf w 32 16) = w := by
  have above : w.extractLsb' 48 12 = 0#12 := extractLsb'_eq_zero_of_masked h (by decide)
  calc formatP (fieldOf w 0 16) (fieldOf w 16 16) (fieldOf w 32 16)
    _ = w.extractLsb' 60 4 ++ w.extractLsb' 48 12 ++ w.extractLsb' 32 16 ++ w.extractLsb' 16 16 ++
          w.extractLsb' 0 16 := by
      rw [formatP, ofNat_fieldOf, ofNat_fieldOf, ofNat_fieldOf, hopc, above]
    _ = w := by
      simp only [BitVec.extractLsb'_append_extractLsb'_eq_extractLsb']
      exact BitVec.extractLsb'_eq_self

/-! ### The three answers of the decoder -/

theorem decode_of_opcode_reserved {w : CmdWord} (h : 6 ≤ fieldOf w 60 4) :
    decode (.command w) = .illegal .eOpc := if_pos h

theorem decode_of_bit_reserved {w : CmdWord} (hopc : fieldOf w 60 4 < 6)
    (h : w &&& reservedMask (fieldOf w 60 4) ≠ 0) : decode (.command w) = .illegal .eRsvd :=
  (if_neg (Nat.not_le.mpr hopc)).trans (if_pos h)

theorem decode_of_no_bit_reserved {w : CmdWord} (hopc : fieldOf w 60 4 < 6)
    (h : w &&& reservedMask (fieldOf w 60 4) = 0) : decode (.command w) = .legal (commandOf (fieldOf w 60 4) w) :=
  (if_neg (Nat.not_le.mpr hopc)).trans (if_neg (not_not_intro h))

/-- What a word that decodes to an instruction is: its opcode has a row, it has no reserved bit, and the instruction
is read from its fields. -/
theorem decode_command_eq_legal {w : CmdWord} {i : Instr} (h : decode (.command w) = .legal i) :
    fieldOf w 60 4 < 6 ∧ w &&& reservedMask (fieldOf w 60 4) = 0 ∧ commandOf (fieldOf w 60 4) w = i := by
  by_cases hopc : fieldOf w 60 4 < 6
  · by_cases hrsv : w &&& reservedMask (fieldOf w 60 4) = 0
    · exact ⟨hopc, hrsv, Decoded.legal.inj ((decode_of_no_bit_reserved hopc hrsv).symm.trans h)⟩
    · cases (decode_of_bit_reserved hopc hrsv).symm.trans h
  · cases (decode_of_opcode_reserved (Nat.not_lt.mp hopc)).symm.trans h

/-! ### A legal word is an encoding -/

/-- The instruction read from the fields of a word with no reserved bit encodes to that word. -/
theorem encode_commandOf {w : CmdWord} {opc : Nat} (hw : fieldOf w 60 4 = opc) (hopc : opc < 6)
    (h : w &&& reservedMask opc = 0) : encode (commandOf opc w) = .command w := by
  have bits : w.extractLsb' 60 4 = BitVec.ofNat 4 opc := by rw [← hw, ofNat_fieldOf]
  interval_cases opc
  · exact congrArg Request.command (formatN_of_fields bits h)
  · exact congrArg Request.command (formatC_of_fields bits h)
  · exact congrArg Request.command (formatS_of_fields bits h)
  · exact congrArg Request.command (formatN_of_fields bits h)
  · exact congrArg Request.command (formatP_of_fields bits h)
  · exact congrArg Request.command (formatN_of_fields bits h)

theorem encode_of_decode_command {w : CmdWord} {i : Instr} (h : decode (.command w) = .legal i) :
    encode i = .command w := by
  obtain ⟨hopc, hrsv, rfl⟩ := decode_command_eq_legal h
  exact encode_commandOf rfl hopc hrsv

/-- Two words that decode to one instruction are both its encoding. -/
theorem decode_command_injective {w w' : CmdWord} {i : Instr} (h : decode (.command w) = .legal i)
    (h' : decode (.command w') = .legal i) : w = w' :=
  Request.command.inj ((encode_of_decode_command h).symm.trans (encode_of_decode_command h'))

/-- Settles O1: the decoder's three answers with the opcode and the fields as numbers, and injectivity from the
encoding of a legal word. -/
theorem decodeFollowsOpcodeThenReservedBits : Obligations.DecodeFollowsOpcodeThenReservedBits := by
  refine ⟨fun w => ?_, fun _ _ _ => decode_command_injective⟩
  intro opc rsv
  have hopc : opc = fieldOf w 60 4 := (opcode_eq_div w).symm
  have hrsv : rsv = reservedMask opc := (reservedMask_eq opc).symm
  rw [hrsv, ← commandOf_eq, hopc]
  exact ⟨decode_of_opcode_reserved, decode_of_bit_reserved, decode_of_no_bit_reserved⟩

/-! ### The assembler -/

/-- A line of a well-formed instruction assembles to that instruction's encoding (30_encoding.md R87). -/
theorem assemble_of_parseLine {cs : List Char} {i : Instr} (hparse : parseLine cs = some (.instr i))
    (hwf : i.wellFormed = true) : assemble cs = .op (.request (encode i)) := by
  simp [assemble, hparse, hwf]

/-- Settles O6: each line with the instruction it stands for. -/
theorem assemblerExamplesAssemble : Obligations.AssemblerExamplesAssemble :=
  ⟨assemble_of_parseLine (i := .config 120 128 .columnMajor false) (by decide) (by decide),
    assemble_of_parseLine (i := .config 246 128 .columnMajor false) (by decide) (by decide),
    assemble_of_parseLine (i := .config 3 3 .rowMajor false) (by decide) (by decide),
    assemble_of_parseLine (i := .config 3 3 .columnMajor true) (by decide) (by decide),
    assemble_of_parseLine (i := .profile 0) (by decide) (by decide),
    assemble_of_parseLine (i := .profile 1) (by decide) (by decide),
    assemble_of_parseLine (i := .pixel 32768 32768 32768) (by decide) (by decide),
    assemble_of_parseLine (i := .pixel 1 2 3) (by decide) (by decide),
    assemble_of_parseLine (i := .readReg 0) (by decide) (by decide),
    assemble_of_parseLine (i := .readBuf 1919) (by decide) (by decide)⟩

end Sys2Proof.Machine

/-! The control commands (40_control.md): the words of NOP, CONFIG, PROFILE and CLEAR, and what each command answers
in each STATE. -/

namespace Sys2Proof.Machine

/-! ### Words with no bit outside their row -/

/-- A word that carries, of the opcode field and the reserved bits of `opc`, the opcode alone is legal
(30_encoding.md R80, R83). -/
theorem decode_of_row_bits {w : CmdWord} {opc : Nat} (hopc : opc < 6)
    (h : w &&& (0xF000000000000000#64 ||| reservedMask opc) = BitVec.ofNat 64 opc <<< 60) :
    decode (.command w) = .legal (commandOf opc w) := by
  have covers : (0xF000000000000000#64 ||| reservedMask opc).extractLsb' 60 4 = BitVec.allOnes 4 := by
    interval_cases opc <;> decide
  have within : (0xF000000000000000#64 ||| reservedMask opc) &&& reservedMask opc = reservedMask opc := by
    interval_cases opc <;> decide
  have bits : w.extractLsb' 60 4 = (BitVec.ofNat 64 opc <<< 60).extractLsb' 60 4 := by
    rw [← h, BitVec.extractLsb'_and, covers, BitVec.and_allOnes]
  have field : fieldOf w 60 4 = opc := by
    rw [fieldOf, bits]
    interval_cases opc <;> decide
  have reserved : w &&& reservedMask opc = 0 :=
    calc w &&& reservedMask opc
      _ = w &&& (0xF000000000000000#64 ||| reservedMask opc) &&& reservedMask opc := by
        rw [BitVec.and_assoc, within]
      _ = 0 := by
        rw [h]
        interval_cases opc <;> decide
  subst field
  exact decode_of_no_bit_reserved hopc reserved

/-- A word of a legal word's opcode whose instruction has no operand is that word or has a reserved bit. -/
theorem decode_eq_illegal_of_ne {w legal : CmdWord} {opc : Nat} {i : Instr} (hopc : opc < 6)
    (hi : ∀ v, commandOf opc v = i) (hlegal : decode (.command legal) = .legal i) (hw : w.toNat / 2 ^ 60 = opc)
    (hne : w ≠ legal) : decode (.command w) = .illegal .eRsvd := by
  have field : fieldOf w 60 4 = opc := (opcode_eq_div w).trans hw
  subst field
  refine decode_of_bit_reserved hopc fun hrsv => hne ?_
  have hw' : decode (.command w) = .legal i := (decode_of_no_bit_reserved hopc hrsv).trans (congrArg _ (hi w))
  exact decode_command_injective hw' hlegal

/-! ### The words of CONFIG and PROFILE as numbers -/

theorem wellFormed_config {w h : Nat} {trav : Traversal} {bypass : Bool} :
    (Instr.config w h trav bypass).wellFormed = true ↔ w < 2 ^ 9 ∧ h < 2 ^ 9 := by
  simp [Instr.wellFormed]

theorem wellFormed_profile {sel : Nat} : (Instr.profile sel).wellFormed = true ↔ sel < 2 ^ 8 := by
  simp [Instr.wellFormed]

theorem toNat_append_eq_mul_add {m n : Nat} (hi : BitVec m) (lo : BitVec n) :
    (hi ++ lo).toNat = hi.toNat * 2 ^ n + lo.toNat := by
  rw [BitVec.toNat_append, ← Nat.shiftLeft_add_eq_or_of_lt lo.isLt, Nat.shiftLeft_eq]

theorem toNat_formatC {w h : Nat} (hw : w < 2 ^ 9) (hh : h < 2 ^ 9) (trav : Traversal) (bypass : Bool) :
    (formatC w h trav bypass).toNat = 0x1 * 2 ^ 60 + (if bypass then 2 ^ 33 else 0) +
      (if trav = .rowMajor then 2 ^ 32 else 0) + h * 2 ^ 16 + w := by
  have travNat : (travBit trav).toNat = if trav = .rowMajor then 1 else 0 := by cases trav <;> rfl
  have bypassNat : (BitVec.ofBool bypass).toNat = if bypass then 1 else 0 := by cases bypass <;> rfl
  simp only [formatC, toNat_append_eq_mul_add, BitVec.toNat_ofNat, travNat, bypassNat, Nat.mod_eq_of_lt hw,
    Nat.mod_eq_of_lt hh]
  split_ifs <;> omega

theorem toNat_formatS {sel : Nat} (hsel : sel < 2 ^ 8) : (formatS sel).toNat = 0x2 * 2 ^ 60 + sel := by
  simp only [formatS, toNat_append_eq_mul_add, BitVec.toNat_ofNat, Nat.mod_eq_of_lt hsel]
  omega

theorem commandOf_formatC {w h : Nat} (hw : w < 2 ^ 9) (hh : h < 2 ^ 9) (trav : Traversal) (bypass : Bool) :
    commandOf 1 (formatC w h trav bypass) = .config w h trav bypass := by
  rw [commandOf_eq, toNat_formatC hw hh]
  cases trav <;> cases bypass <;> simp <;> omega

theorem commandOf_formatS {sel : Nat} (hsel : sel < 2 ^ 8) : commandOf 2 (formatS sel) = .profile sel := by
  rw [commandOf_eq, toNat_formatS hsel]
  exact congrArg Instr.profile (by omega)

theorem decode_formatC {w h : Nat} (hw : w < 2 ^ 9) (hh : h < 2 ^ 9) (trav : Traversal) (bypass : Bool) :
    decode (.command (formatC w h trav bypass)) = .legal (.config w h trav bypass) := by
  have row := Laws.TableRow.config w h trav bypass (wellFormed_config.mpr ⟨hw, hh⟩)
  rw [decode_of_row_bits (opc := 1) (by decide) row, commandOf_formatC hw hh]

theorem decode_formatS {sel : Nat} (hsel : sel < 2 ^ 8) :
    decode (.command (formatS sel)) = .legal (.profile sel) := by
  have row := Laws.TableRow.profile sel (wellFormed_profile.mpr hsel)
  rw [decode_of_row_bits (opc := 2) (by decide) row, commandOf_formatS hsel]

/-! ### NOP (40_control.md R100) -/

theorem execNop_eq (s : State) : execNop s = .next s := by
  unfold execNop unlessError
  split <;> rfl

/-- Settles O13: the reserved bits by injectivity of legal words, the effect by both branches of `unlessError`. -/
theorem nopHasNoEffect : Obligations.NopHasNoEffect :=
  have legal : decode (.command 0#64) = .legal .nop := by decide
  ⟨legal, fun _ => decode_eq_illegal_of_ne (by decide) (fun _ => rfl) legal, execNop_eq⟩

/-! ### CLEAR (40_control.md R108) -/

theorem execClear_error {s : State} (h : s.mode = .error) : execClear s = .next (clearError s) := by
  simp [execClear, h]

theorem execClear_else {s : State} (h : s.mode ≠ .error) : execClear s = .next s := by
  simp [execClear, h]

/-- Settles O17: the reserved bits as for NOP, the effect by the two cases of `execClear`. -/
theorem clearLeavesErrorOnly : Obligations.ClearLeavesErrorOnly :=
  have legal : decode (.command 0x5000000000000000#64) = .legal .clear := by decide
  ⟨legal, fun _ => decode_eq_illegal_of_ne (by decide) (fun _ => rfl) legal, fun _ =>
    ⟨execClear_error, execClear_else⟩⟩

/-! ### BUFLEN, and a command in IDLE or DONE -/

theorem regValue_buflen (s : State) :
    regValue 4 s = BitVec.ofNat 32 ((s.cfgW.toNat * s.cfgH.toNat + 7) / 8) := rfl

theorem ofNat_toNat_of_lt {n k : Nat} (h : k < 2 ^ n) : (BitVec.ofNat n k).toNat = k := by
  rw [BitVec.toNat_ofNat, Nat.mod_eq_of_lt h]

theorem regValue_buflen_applyConfig {w h : Nat} (hw : w < 2 ^ 9) (hh : h < 2 ^ 9) (trav : Traversal) (bypass : Bool)
    (s : State) : regValue 4 (applyConfig w h trav bypass s) = BitVec.ofNat 32 ((w * h + 7) / 8) := by
  rw [regValue_buflen, applyConfig_cfgW, applyConfig_cfgH, ofNat_toNat_of_lt hw, ofNat_toNat_of_lt hh]

/-- In IDLE and DONE a command is performed and is not busy. -/
theorem not_error_not_run {s : State} (h : s.mode = .idle ∨ s.mode = .done) : s.mode ≠ .error ∧ s.mode ≠ .run := by
  rcases h with h | h <;> simp [h]

/-! ### CONFIG (40_control.md R102) -/

theorem badDims_iff (p : Config.Params) (w h : Nat) :
    badDims p w h = true ↔ w = 0 ∨ h = 0 ∨ w > p.wMax ∨ h > p.hMax := by
  simp [badDims, or_assoc]

theorem execConfig_badDims {w h : Nat} {trav : Traversal} {bypass : Bool} {s : State}
    (hm : s.mode = .idle ∨ s.mode = .done) (hbad : badDims s.params w h = true) :
    execConfig w h trav bypass s = .next (raiseError .eDims s) := by
  obtain ⟨herr, hrun⟩ := not_error_not_run hm
  simp [execConfig, unlessError_else herr, hrun, hbad]

theorem execConfig_accepted {w h : Nat} {trav : Traversal} {bypass : Bool} {s : State}
    (hm : s.mode = .idle ∨ s.mode = .done) (hok : badDims s.params w h = false) :
    execConfig w h trav bypass s = .next (applyConfig w h trav bypass s) := by
  obtain ⟨herr, hrun⟩ := not_error_not_run hm
  simp [execConfig, unlessError_else herr, hrun, hok]

theorem badDims_eq_false {p : Config.Params} {w h : Nat} (hw : 1 ≤ w) (hwMax : w ≤ p.wMax) (hh : 1 ≤ h)
    (hhMax : h ≤ p.hMax) : badDims p w h = false := by
  rw [← Bool.not_eq_true, badDims_iff]
  omega

/-- Settles O14: the word by its number, then one answer of `execConfig` for each clause. -/
theorem configSetsConfiguration : Obligations.ConfigSetsConfiguration := by
  intro w h trav bypass hwf
  obtain ⟨hw, hh⟩ := wellFormed_config.mp hwf
  refine ⟨?_, fun s => ⟨fun herr => unlessError_error herr _, fun hrun => execConfig_run hrun .., ?_, ?_⟩⟩
  · rw [← toNat_formatC hw hh, BitVec.ofNat_toNat, BitVec.setWidth_eq, decode_formatC hw hh]
  · intro hm hbad
    exact execConfig_badDims hm ((badDims_iff ..).mpr hbad)
  · intro hm hw1 hwMax hh1 hhMax
    exact ⟨_, execConfig_accepted hm (badDims_eq_false hw1 hwMax hh1 hhMax), rfl, ofNat_toNat_of_lt hw,
      ofNat_toNat_of_lt hh, regValue_buflen_applyConfig hw hh trav bypass s⟩

/-! ### PROFILE (40_control.md R104) -/

theorem profileDims_of_lt_two {sel : Nat} (h : sel < 2) :
    profileDims sel = some (if sel = 0 then 120 else 246, 128) := by
  interval_cases sel <;> rfl

theorem profileDims_of_two_le {sel : Nat} (h : 2 ≤ sel) : profileDims sel = none := by
  obtain ⟨n, rfl⟩ := Nat.exists_eq_add_of_le' h
  rfl

theorem profileTooLarge_iff (p : Config.Params) (w h : Nat) :
    profileTooLarge p w h = true ↔ w > p.wMax ∨ h > p.hMax := by
  simp [profileTooLarge]

theorem execProfile_unknown {sel : Nat} {s : State} (hm : s.mode = .idle ∨ s.mode = .done)
    (hsel : profileDims sel = none) : execProfile sel s = .next (raiseError .eSel s) := by
  obtain ⟨herr, hrun⟩ := not_error_not_run hm
  simp [execProfile, unlessError_else herr, hrun, hsel]

theorem execProfile_tooLarge {sel w h : Nat} {s : State} (hm : s.mode = .idle ∨ s.mode = .done)
    (hsel : profileDims sel = some (w, h)) (hbad : profileTooLarge s.params w h = true) :
    execProfile sel s = .next (raiseError .eDims s) := by
  obtain ⟨herr, hrun⟩ := not_error_not_run hm
  simp [execProfile, unlessError_else herr, hrun, hsel, hbad]

theorem execProfile_accepted {sel w h : Nat} {s : State} (hm : s.mode = .idle ∨ s.mode = .done)
    (hsel : profileDims sel = some (w, h)) (hok : profileTooLarge s.params w h = false) :
    execProfile sel s = .next (applyConfig w h .columnMajor false s) := by
  obtain ⟨herr, hrun⟩ := not_error_not_run hm
  simp [execProfile, unlessError_else herr, hrun, hsel, hok]

/-- Settles O15: the word by its number, then one answer of `execProfile` for each clause. -/
theorem profileSelectsFixedTarget : Obligations.ProfileSelectsFixedTarget := by
  intro sel hwf
  have hsel8 := wellFormed_profile.mp hwf
  refine ⟨?_, fun s => ⟨fun herr => unlessError_error herr _, fun hrun => execProfile_run hrun _, ?_, ?_, ?_⟩⟩
  · rw [← toNat_formatS hsel8, BitVec.ofNat_toNat, BitVec.setWidth_eq, decode_formatS hsel8]
  · intro hm hsel
    exact execProfile_unknown hm (profileDims_of_two_le hsel)
  · intro hm hsel hbad
    exact execProfile_tooLarge hm (profileDims_of_lt_two hsel) ((profileTooLarge_iff ..).mpr hbad)
  · intro hm hsel hwMax hhMax
    have hok : profileTooLarge s.params (if sel = 0 then 120 else 246) 128 = false := by
      rw [← Bool.not_eq_true, profileTooLarge_iff]
      omega
    refine ⟨_, execProfile_accepted hm (profileDims_of_lt_two hsel) hok, rfl, ?_⟩
    rw [regValue_buflen_applyConfig (by split_ifs <;> decide) (by decide)]
    split_ifs <;> rfl

/-! ### START (40_control.md R106) -/

theorem unconfigured_iff (s : State) : unconfigured s = true ↔ s.cfgW = 0 ∨ s.cfgH = 0 := by
  simp [unconfigured]

theorem execStart_run {s : State} (hrun : s.mode = .run) : execStart s = .next (raiseError .eBusy s) := by
  simp [execStart, unlessError_else, hrun]

theorem execStart_unconfigured {s : State} (hm : s.mode = .idle ∨ s.mode = .done) (hu : unconfigured s = true) :
    execStart s = .next (raiseError .eNoCfg s) := by
  obtain ⟨herr, hrun⟩ := not_error_not_run hm
  simp [execStart, unlessError_else herr, hrun, hu]

theorem execStart_accepted {s : State} (hm : s.mode = .idle ∨ s.mode = .done) (hu : unconfigured s = false) :
    execStart s = .next (beginFrame s) := by
  obtain ⟨herr, hrun⟩ := not_error_not_run hm
  simp [execStart, unlessError_else herr, hrun, hu]

theorem memRead_beginFrame (a : Nat) (s : State) : memRead a (beginFrame s) = 0 := readByte_clearedBuf a

/-- Settles O16: one answer of `execStart` for each clause, and what `beginFrame` clears. -/
theorem startBeginsFrame : Obligations.StartBeginsFrame := by
  refine ⟨by decide, fun s => ⟨fun herr => unlessError_error herr _, execStart_run, ?_, ?_⟩⟩
  · intro hm hcfg
    exact execStart_unconfigured hm ((unconfigured_iff s).mpr hcfg)
  · intro hm hw hh
    have configured : unconfigured s = false := by
      rw [← Bool.not_eq_true, unconfigured_iff]
      exact not_or.mpr ⟨hw, hh⟩
    exact ⟨beginFrame s, execStart_accepted hm configured, fun a => memRead_beginFrame a s,
      fun i => ⟨rowAt_zeroRow s i, rowAt_zeroRow s i⟩, zeroRow_length s, zeroRow_length s, rfl⟩

end Sys2Proof.Machine

/-! The ditherer's numerics (41_dither.md R124 to R128): the error-adjusted value, the nearest palette colour, the
quantisation error and the output bit, each as a fact about integers. -/

namespace Sys2Proof.Machine

/-! ### The error-adjusted value (41_dither.md R124) -/

theorem tdiv16_eq_tdiv (a : Int) : tdiv16 a = a.tdiv 16 := by
  rcases lt_trichotomy a 0 with ha | rfl | ha
  · rw [tdiv16, Int.sign_eq_neg_one_of_neg ha, ← Int.neg_neg a, Int.neg_tdiv, Int.natAbs_neg,
      Int.tdiv_eq_ediv_of_nonneg (by omega)]
    omega
  · rfl
  · rw [tdiv16, Int.sign_eq_one_of_pos ha, Int.tdiv_eq_ediv_of_nonneg ha.le]
    omega

theorem clamp16_eq_max_min (v : Int) : clamp16 v = max 0 (min 65535 v) := by
  unfold clamp16
  split_ifs <;> omega

theorem clamp16_nonneg (v : Int) : 0 ≤ clamp16 v := by
  rw [clamp16_eq_max_min]
  omega

theorem clamp16_le (v : Int) : clamp16 v ≤ 65535 := by
  rw [clamp16_eq_max_min]
  omega

/-- Each lane of the error-adjusted value is in the range of a channel. -/
theorem adjusted_range (p : Rgb Nat) (e : Rgb Int) :
    (0 ≤ (adjusted p e).r ∧ (adjusted p e).r ≤ 65535) ∧ (0 ≤ (adjusted p e).g ∧ (adjusted p e).g ≤ 65535) ∧
      (0 ≤ (adjusted p e).b ∧ (adjusted p e).b ≤ 65535) :=
  ⟨⟨clamp16_nonneg _, clamp16_le _⟩, ⟨clamp16_nonneg _, clamp16_le _⟩, clamp16_nonneg _, clamp16_le _⟩

/-- The error-adjusted value by the library's truncating quotient and lattice operations. -/
theorem adjusted_eq (p : Rgb Nat) (e : Rgb Int) :
    adjusted p e = ⟨max 0 (min 65535 ((p.r : Int) + e.r.tdiv 16)), max 0 (min 65535 ((p.g : Int) + e.g.tdiv 16)),
      max 0 (min 65535 ((p.b : Int) + e.b.tdiv 16))⟩ := by
  simp only [adjusted, Rgb.zip, clamp16_eq_max_min, tdiv16_eq_tdiv]

/-- Settles O28: `adjusted_eq`, whose lanes are then in range, and the rule's example evaluated. -/
theorem adjustedValueTruncatesAndClamps : Obligations.AdjustedValueTruncatesAndClamps := by
  refine ⟨fun p e => ⟨adjusted_eq p e, ?_⟩, fun p s => rfl, by decide⟩
  have range := adjusted_range p e
  rwa [adjusted_eq] at range

/-! ### The nearest palette colour (41_dither.md R125) -/

/-- The squares cancel: the two distances differ by a linear function of the channels' sum. -/
theorem distance_white_eq (v : Rgb Int) :
    distance v .white = distance v .black + (3 * 65535 ^ 2 - 2 * 65535 * (v.r + v.g + v.b)) := by
  simp only [distance, colourLevel]
  ring

/-- Black is at most as far as White exactly up to half the sum of White's channels, which is no integer. -/
theorem distance_black_le_iff (v : Rgb Int) :
    distance v .black ≤ distance v .white ↔ v.r + v.g + v.b ≤ 98302 := by
  rw [distance_white_eq]
  omega

theorem distance_black_ne_white (v : Rgb Int) : distance v .black ≠ distance v .white := by
  rw [distance_white_eq]
  omega

theorem nearest_eq (v : Rgb Int) : nearest v = if v.r + v.g + v.b ≤ 98302 then .black else .white := by
  simp only [nearest, distance_black_le_iff]

theorem nearest_eq_black_iff (v : Rgb Int) : nearest v = .black ↔ v.r + v.g + v.b ≤ 98302 := by
  rw [nearest_eq]
  split_ifs with h <;> simp [h]

theorem nearest_eq_white_iff (v : Rgb Int) : nearest v = .white ↔ 98302 < v.r + v.g + v.b := by
  rw [nearest_eq]
  split_ifs with h
  · simpa using h
  · simpa using h

theorem distance_black_eq (v : Rgb Int) : distance v .black = v.r ^ 2 + v.g ^ 2 + v.b ^ 2 := by
  simp only [distance, colourLevel, zero_sub, neg_sq]

/-- Settles O29: the threshold is where the linear difference of the distances changes sign. -/
theorem nearestIsBlackUpToHalf : Obligations.NearestIsBlackUpToHalf := by
  intro v dB dW
  have hB : distance v .black = dB := distance_black_eq v
  have hW : distance v .white = dW := rfl
  have threshold : dB ≤ dW ↔ v.r + v.g + v.b ≤ 98302 := by rw [← hB, ← hW, distance_black_le_iff]
  have noTie : dB ≠ dW := by
    rw [← hB, ← hW]
    exact distance_black_ne_white v
  refine ⟨(nearest_eq_black_iff v).trans threshold.symm, ?_, noTie, nearest_eq_black_iff v, by decide, by decide⟩
  rw [nearest_eq_white_iff, gt_iff_lt, ← not_le, ← not_le, threshold]

/-! ### The quantisation error (41_dither.md R126) -/

theorem quantError_black (v : Rgb Int) : quantError v .black = v := by
  simp [quantError, Rgb.map, colourLevel]

theorem quantError_white (v : Rgb Int) : quantError v .white = ⟨v.r - 65535, v.g - 65535, v.b - 65535⟩ := rfl

/-- The error of a channel's value to either end of its range is at most that range. -/
theorem quantError_adjusted_within (p : Rgb Nat) (e : Rgb Int) (c : Colour) :
    entryWithin 65535 (quantError (adjusted p e) c) := by
  obtain ⟨hr, hg, hb⟩ := adjusted_range p e
  simp only [entryWithin, abs_le]
  cases c with
  | black =>
    rw [quantError_black]
    omega
  | white =>
    simp only [quantError_white]
    omega

/-- Settles O30: the range of the adjusted value, less either colour's level. -/
theorem quantisationErrorIsBounded : Obligations.QuantisationErrorIsBounded := by
  intro p e v q
  obtain ⟨hr, hg, hb⟩ := adjusted_range p e
  refine ⟨fun black => ?_, fun white => ?_, quantError_adjusted_within p e _⟩
  · have hq : q = v := (congrArg (quantError v) black).trans (quantError_black v)
    rw [hq]
    exact ⟨rfl, hr.1, hg.1, hb.1⟩
  · have hq : q = ⟨v.r - 65535, v.g - 65535, v.b - 65535⟩ := congrArg (quantError v) white
    rw [hq]
    exact ⟨rfl, sub_nonpos.mpr hr.2, sub_nonpos.mpr hg.2, sub_nonpos.mpr hb.2⟩

/-! ### The output bit (41_dither.md R128) -/

/-- Settles O31: both palette colours. -/
theorem outputBitIsBlack : Obligations.OutputBitIsBlack := by
  intro c
  cases c <;> decide

end Sys2Proof.Machine

/-! The line buffer by the integers it holds (10_state.md R30): what adding a share to an entry and diffusing an error
do to the entry of each column. -/

namespace Sys2Proof.Machine

/-! ### Entries -/

/-- What an entry holds of three integers: 21 bits in two's complement (10_state.md R30). -/
def heldAt21 (e : Rgb Int) : Rgb Int := e.map (fun c => c.bmod (2 ^ 21))

theorem heldAt21_rowAt (row : Row) (i : Nat) : heldAt21 (rowAt row i) = rowAt row i := by
  simp only [heldAt21, rowAt, Rgb.map, BitVec.toInt_bmod_cancel]

/-- Integers that fit 21 bits are held as they are. -/
theorem heldAt21_of_within {e : Rgb Int} (h : entryWithin 1048575 e) : heldAt21 e = e := by
  simp only [entryWithin, abs_le] at h
  obtain ⟨hr, hg, hb⟩ := h
  have held : ∀ {c : Int}, -1048575 ≤ c ∧ c ≤ 1048575 → c.bmod (2 ^ 21) = c := fun hc =>
    Int.bmod_eq_of_le_mul_two (by omega) (by omega)
  simp only [heldAt21, Rgb.map, held hr, held hg, held hb]

theorem map_toInt_addToEntry (m : Int) (q : Rgb Int) (e : Entry) :
    (addToEntry m q e).map BitVec.toInt = heldAt21 (plusShare (e.map BitVec.toInt) m q) := by
  simp only [addToEntry, heldAt21, plusShare, Rgb.map, Rgb.zip, BitVec.toInt_ofInt]

@[simp] theorem plusShare_zero_weight (e q : Rgb Int) : plusShare e 0 q = e := by
  simp [plusShare, Rgb.zip]

theorem plusShare_plusShare (e : Rgb Int) (m n : Int) (q : Rgb Int) :
    plusShare (plusShare e m q) n q = plusShare e (m + n) q := by
  simp only [plusShare, Rgb.zip, Rgb.mk.injEq]
  refine ⟨?_, ?_, ?_⟩ <;> ring

/-- Two shares of one error, each cut to 21 bits, are their sum cut once. -/
theorem heldAt21_plusShare_twice (e : Rgb Int) (m n : Int) (q : Rgb Int) :
    heldAt21 (plusShare (heldAt21 (plusShare e m q)) n q) = heldAt21 (plusShare e (m + n) q) := by
  rw [← plusShare_plusShare]
  simp only [heldAt21, plusShare, Rgb.map, Rgb.zip, Int.bmod_add_bmod]

theorem entryWithin_mono {a b : Int} {e : Rgb Int} (h : entryWithin a e) (hab : a ≤ b) : entryWithin b e :=
  ⟨h.1.trans hab, h.2.1.trans hab, h.2.2.trans hab⟩

theorem entryWithin_zero {a : Int} (ha : 0 ≤ a) : entryWithin a (Rgb.all 0) := by
  simp [entryWithin, Rgb.all, ha]

theorem abs_add_mul_le {a b m old d : Int} (hold : |old| ≤ a) (hd : |d| ≤ b) (hm : 0 ≤ m) :
    |old + m * d| ≤ a + m * b :=
  calc |old + m * d| ≤ |old| + |m * d| := abs_add_le ..
    _ = |old| + m * |d| := by rw [abs_mul, abs_of_nonneg hm]
    _ ≤ a + m * b := add_le_add hold (mul_le_mul_of_nonneg_left hd hm)

/-- A share widens an entry's bound by its weight times the error's. -/
theorem entryWithin_plusShare {a b m : Int} {e q : Rgb Int} (he : entryWithin a e) (hq : entryWithin b q)
    (hm : 0 ≤ m) : entryWithin (a + m * b) (plusShare e m q) := by
  obtain ⟨her, heg, heb⟩ := he
  obtain ⟨hqr, hqg, hqb⟩ := hq
  exact ⟨abs_add_mul_le her hqr hm, abs_add_mul_le heg hqg hm, abs_add_mul_le heb hqb hm⟩

/-! ### Rows -/

/-- A conditional share for one column, as a share for every column whose weight is 0 elsewhere. -/
theorem rowAt_ite_addToRow {c : Prop} [Decidable c] {i : Nat} {row : Row} (hi : c → i < row.length) (m : Int)
    (q : Rgb Int) (j : Nat) :
    rowAt (if c then addToRow i m q row else row) j =
      heldAt21 (plusShare (rowAt row j) (if c ∧ j = i then m else 0) q) := by
  by_cases hc : c
  · rw [if_pos hc, rowAt_addToRow]
    by_cases hj : j = i
    · subst hj
      rw [if_pos ⟨rfl, hi hc⟩, if_pos ⟨hc, rfl⟩, map_toInt_addToEntry, rowAt]
    · rw [if_neg (fun h => hj h.1), if_neg (fun h => hj h.2), plusShare_zero_weight, heldAt21_rowAt]
  · rw [if_neg hc, if_neg (fun h => hc h.1), plusShare_zero_weight, heldAt21_rowAt]

/-- The kernel weight from the pixel of column `x` to column `i` of its own row, in a frame `w` wide: 7 to the right
(41_dither.md R127). -/
def rightWeight (w x i : Nat) : Int := if x + 1 < w ∧ i = x + 1 then 7 else 0

theorem rowAt_diffuseRight {w x : Nat} {row : Row} (hright : x + 1 < w → x + 1 < row.length) (q : Rgb Int) (i : Nat) :
    rowAt (diffuseRight w x q row) i = heldAt21 (plusShare (rowAt row i) (rightWeight w x i) q) :=
  rowAt_ite_addToRow hright 7 q i

/-- The three weights of the row below are those of three different columns. -/
theorem belowWeight_eq_sum (w x i : Nat) :
    belowWeight w x i = (if x ≥ 1 ∧ i = x - 1 then 3 else 0) + (if i = x then 5 else 0) +
      (if x + 1 < w ∧ i = x + 1 then 1 else 0) := by
  unfold belowWeight
  split_ifs <;> omega

theorem rowAt_diffuseBelow {w x : Nat} {row : Row} (hx : x < row.length) (hright : x + 1 < w → x + 1 < row.length)
    (q : Rgb Int) (i : Nat) :
    rowAt (diffuseBelow w x q row) i = heldAt21 (plusShare (rowAt row i) (belowWeight w x i) q) := by
  let left := if x ≥ 1 then addToRow (x - 1) 3 q row else row
  let below := addToRow x 5 q left
  have hlen : left.length = row.length := by
    dsimp only [left]
    split_ifs <;> simp
  have hleft : rowAt left i = heldAt21 (plusShare (rowAt row i) (if x ≥ 1 ∧ i = x - 1 then 3 else 0) q) :=
    rowAt_ite_addToRow (fun _ => by omega) 3 q i
  have hbelow : rowAt below i = heldAt21 (plusShare (rowAt left i) (if i = x then 5 else 0) q) := by
    simpa using rowAt_ite_addToRow (c := True) (fun _ => hlen ▸ hx) 5 q i
  calc rowAt (diffuseBelow w x q row) i
    _ = heldAt21 (plusShare (rowAt below i) (if x + 1 < w ∧ i = x + 1 then 1 else 0) q) :=
      rowAt_ite_addToRow (fun h => by rw [addToRow_length, hlen]; exact hright h) 1 q i
    _ = heldAt21 (plusShare (rowAt row i) (belowWeight w x i) q) := by
      rw [hbelow, hleft, heldAt21_plusShare_twice, heldAt21_plusShare_twice, ← add_assoc, belowWeight_eq_sum]

end Sys2Proof.Machine

/-! PIXEL in RUN as one function of the state (41_dither.md R120): the pixel's bit and error, the state it answers, and
the invariant kept. -/

namespace Sys2Proof.Machine

/-! ### The state a PIXEL in RUN answers -/

/-- The bit of pixel `p` at the current position: classified in bypass, dithered otherwise (41_dither.md R120). -/
def bitOfPixel (p : Rgb Nat) (s : State) : Bool :=
  if s.bypass then classify p else colourBit (nearest (adjusted p (rowAt s.errCur s.x.toNat)))

/-- The error that pixel `p` diffuses at the current position: none in bypass (41_dither.md R126, R131). -/
def pixelError (p : Rgb Nat) (s : State) : Rgb Int :=
  if s.bypass then Rgb.all 0
  else quantError (adjusted p (rowAt s.errCur s.x.toNat)) (nearest (adjusted p (rowAt s.errCur s.x.toNat)))

/-- A pixel's error diffused and its bit packed, the position not yet advanced. -/
def storePixel (p : Rgb Nat) (s : State) : State :=
  memWrite (curIndex s / 8) (setBit (memRead (curIndex s / 8) s) (curIndex s) (bitOfPixel p s))
    (diffuse (pixelError p s) s)

/-- The state that PIXEL of `p` answers in RUN; `execPixel_run` ties it to the model. -/
def pixelNext (p : Rgb Nat) (s : State) : State := advance (storePixel p s)

theorem addToRow_zero (i : Nat) (m : Int) (row : Row) : addToRow i m (Rgb.all 0) row = row := by
  have same : addToEntry m (Rgb.all 0) = id := by
    funext e
    simp [addToEntry, Rgb.zip, Rgb.all]
  rw [addToRow, same, List.modify_id]

/-- Diffusing no error leaves the state as it is. -/
theorem diffuse_zero (s : State) : diffuse (Rgb.all 0) s = s := by
  simp [diffuse, diffuseRight, diffuseBelow, addToRow_zero]

/-- Bypass is the same datapath with no error to diffuse. -/
theorem pixelBit_eq {p : Rgb Nat} {s : State} (hline : lineInside s = true) :
    pixelBit p s = .ok (bitOfPixel p s, diffuse (pixelError p s) s) := by
  cases hb : s.bypass <;> simp [pixelBit, bitOfPixel, pixelError, hb, hline, dither, diffuse_zero]

theorem pack_eq {bit : Bool} {s : State} (hin : curIndex s / 8 < bufBytes s.params) :
    pack bit s =
      .ok (memWrite (curIndex s / 8) (setBit (memRead (curIndex s / 8) s) (curIndex s) bit) s) := by
  simp [pack, inBuf, hin]

/-! ### In RUN the position is inside the frame, the line buffer and BUF -/

/-- The ranges of the position and the dimensions in RUN (10_state.md R24, R28). -/
theorem State.Inv.run_ranges {s : State} (hinv : s.Inv) (hrun : s.mode = .run) :
    (s.x.toNat < s.cfgW.toNat ∧ s.cfgW.toNat ≤ s.params.wMax ∧ s.params.wMax ≤ 511) ∧
      (s.y.toNat < s.cfgH.toNat ∧ s.cfgH.toNat ≤ s.params.hMax ∧ s.params.hMax ≤ 511) := by
  obtain ⟨hx, hy⟩ := hinv.run_position hrun
  obtain ⟨_, hwMax, _, hhMax⟩ := hinv.params_legal
  rcases hinv.config_legal with ⟨hw, _⟩ | ⟨_, hw, _, hh⟩
  · simp [hw] at hx
  · exact ⟨⟨hx, hw, hwMax⟩, hy, hh, hhMax⟩

/-- The pixel to take is inside its row or the last of it. -/
theorem State.Inv.column_cases {s : State} (hinv : s.Inv) (hrun : s.mode = .run) :
    s.x.toNat + 1 < s.cfgW.toNat ∨ s.x.toNat + 1 = s.cfgW.toNat :=
  Nat.lt_or_eq_of_le (hinv.run_position hrun).1

theorem lineInside_of_run {s : State} (hinv : s.Inv) (hrun : s.mode = .run) : lineInside s = true := by
  obtain ⟨⟨hx, hw, _⟩, _⟩ := hinv.run_ranges hrun
  simp only [lineInside, Bool.and_eq_true, Bool.or_eq_true, decide_eq_true_eq]
  omega

/-- Both traversals number the pixels of a frame below its size (42_pack.md R150). -/
theorem bitIndex_lt {w h x y : Nat} (hx : x < w) (hy : y < h) (trav : Traversal) : bitIndex trav w h x y < w * h := by
  cases trav with
  | columnMajor =>
    calc x * h + y < x * h + h := by omega
      _ = (x + 1) * h := by ring
      _ ≤ w * h := Nat.mul_le_mul_right h hx
  | rowMajor =>
    calc y * w + x < y * w + w := by omega
      _ = w * (y + 1) := by ring
      _ ≤ w * h := Nat.mul_le_mul_left w hy

theorem curIndex_inside {s : State} (hinv : s.Inv) (hrun : s.mode = .run) :
    curIndex s / 8 < bufBytes s.params := by
  obtain ⟨⟨hx, hw, _⟩, hy, hh, _⟩ := hinv.run_ranges hrun
  have hk : curIndex s < s.params.wMax * s.params.hMax :=
    (bitIndex_lt hx hy s.trav).trans_le (Nat.mul_le_mul hw hh)
  rw [bufBytes, ceilDiv]
  omega

/-- The position's number in the frame, which PIXCOUNT holds, is below the frame's size. -/
theorem pixcount_lt {s : State} (hinv : s.Inv) (hrun : s.mode = .run) :
    s.pixcount.toNat < s.cfgW.toNat * s.cfgH.toNat := by
  obtain ⟨hx, hy⟩ := hinv.run_position hrun
  rw [hinv.frame_pixcount (.inl hrun)]
  exact bitIndex_lt hx hy .rowMajor

theorem takePixel_run {s : State} (hinv : s.Inv) (hrun : s.mode = .run) (p : Rgb Nat) :
    takePixel p s = .next (pixelNext p s) := by
  have hin : curIndex (diffuse (pixelError p s) s) / 8 < bufBytes (diffuse (pixelError p s) s).params :=
    (curIndex_inside hinv hrun :)
  simp only [takePixel, pixelBit_eq (lineInside_of_run hinv hrun), pack_eq hin]
  rfl

/-- PIXEL in RUN completes, with the state `pixelNext` (41_dither.md R120). -/
theorem execPixel_run {s : State} (hinv : s.Inv) (hrun : s.mode = .run) (r g b : Nat) :
    execPixel r g b s = .next (pixelNext ⟨r, g, b⟩ s) := by
  simp [execPixel, unlessError_else, hrun, takePixel_run hinv hrun]

/-! ### What `advance` leaves unchanged -/

@[simp] theorem advance_params (s : State) : (advance s).params = s.params := by
  rcases advance_cases s with ⟨_, h⟩ | ⟨_, h⟩ <;> simp [h]
@[simp] theorem advance_errcode (s : State) : (advance s).errcode = s.errcode := by
  rcases advance_cases s with ⟨_, h⟩ | ⟨_, h⟩ <;> simp [h]
@[simp] theorem advance_cfgW (s : State) : (advance s).cfgW = s.cfgW := by
  rcases advance_cases s with ⟨_, h⟩ | ⟨_, h⟩ <;> simp [h]
@[simp] theorem advance_cfgH (s : State) : (advance s).cfgH = s.cfgH := by
  rcases advance_cases s with ⟨_, h⟩ | ⟨_, h⟩ <;> simp [h]
@[simp] theorem advance_trav (s : State) : (advance s).trav = s.trav := by
  rcases advance_cases s with ⟨_, h⟩ | ⟨_, h⟩ <;> simp [h]
@[simp] theorem advance_bypass (s : State) : (advance s).bypass = s.bypass := by
  rcases advance_cases s with ⟨_, h⟩ | ⟨_, h⟩ <;> simp [h]
@[simp] theorem advance_pixcount (s : State) : (advance s).pixcount = s.pixcount + 1 := by
  rcases advance_cases s with ⟨_, h⟩ | ⟨_, h⟩ <;> simp [h]
@[simp] theorem advance_buf (s : State) : (advance s).buf = s.buf := by
  rcases advance_cases s with ⟨_, h⟩ | ⟨_, h⟩ <;> simp [h]
@[simp] theorem advance_resets (s : State) : (advance s).resets = s.resets := by
  rcases advance_cases s with ⟨_, h⟩ | ⟨_, h⟩ <;> simp [h]

/-! ### `pixelNext` field by field -/

@[simp] theorem pixelNext_params (p : Rgb Nat) (s : State) : (pixelNext p s).params = s.params := by
  simp [pixelNext, storePixel]
@[simp] theorem pixelNext_errcode (p : Rgb Nat) (s : State) : (pixelNext p s).errcode = s.errcode := by
  simp [pixelNext, storePixel]
@[simp] theorem pixelNext_cfgW (p : Rgb Nat) (s : State) : (pixelNext p s).cfgW = s.cfgW := by
  simp [pixelNext, storePixel]
@[simp] theorem pixelNext_cfgH (p : Rgb Nat) (s : State) : (pixelNext p s).cfgH = s.cfgH := by
  simp [pixelNext, storePixel]
@[simp] theorem pixelNext_trav (p : Rgb Nat) (s : State) : (pixelNext p s).trav = s.trav := by
  simp [pixelNext, storePixel]
@[simp] theorem pixelNext_bypass (p : Rgb Nat) (s : State) : (pixelNext p s).bypass = s.bypass := by
  simp [pixelNext, storePixel]
@[simp] theorem pixelNext_resets (p : Rgb Nat) (s : State) : (pixelNext p s).resets = s.resets := by
  simp [pixelNext, storePixel]
theorem pixelNext_buf (p : Rgb Nat) (s : State) : (pixelNext p s).buf =
    writeByte s.buf (curIndex s / 8) (setBit (memRead (curIndex s / 8) s) (curIndex s) (bitOfPixel p s)) := by
  simp [pixelNext, storePixel]

theorem pixelNext_pixcount {s : State} (hinv : s.Inv) (hrun : s.mode = .run) (p : Rgb Nat) :
    (pixelNext p s).pixcount.toNat = s.pixcount.toNat + 1 := by
  obtain ⟨⟨_, hw, hwMax⟩, _, hh, hhMax⟩ := hinv.run_ranges hrun
  have hsize : s.cfgW.toNat * s.cfgH.toNat ≤ 511 * 511 := Nat.mul_le_mul (hw.trans hwMax) (hh.trans hhMax)
  have hcount := pixcount_lt hinv hrun
  have hnext : (pixelNext p s).pixcount = s.pixcount + 1 := by simp [pixelNext, storePixel]
  rw [hnext]
  bv_omega

/-- A PIXEL before the last column leaves the row. -/
theorem pixelNext_inRow {s : State} (hx : s.x.toNat + 1 < s.cfgW.toNat) (p : Rgb Nat) :
    pixelNext p s = countPixel (storePixel p s) := by
  rcases advance_cases (storePixel p s) with ⟨_, h⟩ | ⟨hend, _⟩
  · exact h
  · have hend : s.x + 1 = s.cfgW := hend
    bv_omega

/-- A PIXEL of the last column ends the row. -/
theorem pixelNext_rowEnd {s : State} (hx : s.x.toNat + 1 = s.cfgW.toNat) (p : Rgb Nat) :
    pixelNext p s = endFrame (endRow (countPixel (storePixel p s))) := by
  rcases advance_cases (storePixel p s) with ⟨hin, _⟩ | ⟨_, h⟩
  · have hin : s.x + 1 ≠ s.cfgW := hin
    bv_omega
  · exact h

theorem pixelNext_position_inRow {s : State} (hx : s.x.toNat + 1 < s.cfgW.toNat) (p : Rgb Nat) :
    (pixelNext p s).x.toNat = s.x.toNat + 1 ∧ (pixelNext p s).y = s.y ∧ (pixelNext p s).mode = s.mode := by
  rw [pixelNext_inRow hx]
  have hnext : (s.x + 1).toNat = s.x.toNat + 1 := by bv_omega
  exact ⟨hnext, rfl, rfl⟩

theorem pixelNext_position_rowEnd {s : State} (hx : s.x.toNat + 1 = s.cfgW.toNat) (hy : s.y.toNat < s.cfgH.toNat)
    (p : Rgb Nat) :
    (pixelNext p s).x = 0 ∧ (pixelNext p s).y.toNat = s.y.toNat + 1 ∧
      (pixelNext p s).mode = if s.y.toNat + 1 = s.cfgH.toNat then .done else s.mode := by
  rw [pixelNext_rowEnd hx]
  have hnext : (s.y + 1).toNat = s.y.toNat + 1 := by bv_omega
  refine ⟨endFrame_x _, (congrArg BitVec.toNat (endFrame_y _)).trans hnext, ?_⟩
  have hlast : s.y + 1 = s.cfgH ↔ s.y.toNat + 1 = s.cfgH.toNat := by
    rw [← hnext]
    exact BitVec.toNat_inj.symm
  rw [endFrame_mode]
  exact if_congr hlast rfl rfl

/-- Where a PIXEL in RUN leaves the position: at the next pixel of the frame, or past its last row at DONE; PIXCOUNT is
the position's number in raster order (10_state.md R27, 41_dither.md R129). -/
theorem pixelNext_position {s : State} (hinv : s.Inv) (hrun : s.mode = .run) (p : Rgb Nat) :
    (((pixelNext p s).mode = .run ∧ (pixelNext p s).x.toNat < s.cfgW.toNat ∧
        (pixelNext p s).y.toNat < s.cfgH.toNat) ∨
      ((pixelNext p s).mode = .done ∧ (pixelNext p s).x = 0 ∧ (pixelNext p s).y = s.cfgH)) ∧
      (pixelNext p s).pixcount.toNat = (pixelNext p s).y.toNat * s.cfgW.toNat + (pixelNext p s).x.toNat := by
  obtain ⟨hx, hy⟩ := hinv.run_position hrun
  rw [pixelNext_pixcount hinv hrun, hinv.frame_pixcount (.inl hrun)]
  rcases hinv.column_cases hrun with hin | hend
  · obtain ⟨hx', hy', hm⟩ := pixelNext_position_inRow hin p
    rw [hx', hy', hm]
    exact ⟨.inl ⟨hrun, hin, hy⟩, by ring⟩
  · obtain ⟨hx', hy', hm⟩ := pixelNext_position_rowEnd hend hy p
    rw [hx', hy', hm]
    refine ⟨?_, ?_⟩
    · by_cases hlast : s.y.toNat + 1 = s.cfgH.toNat
      · exact .inr ⟨if_pos hlast, rfl, BitVec.eq_of_toNat_eq (hy'.trans hlast)⟩
      · exact .inl ⟨(if_neg hlast).trans hrun, Nat.zero_lt_of_lt hx, by omega⟩
    · calc s.y.toNat * s.cfgW.toNat + s.x.toNat + 1
        _ = s.y.toNat * s.cfgW.toNat + s.cfgW.toNat := by rw [add_assoc, hend]
        _ = (s.y.toNat + 1) * s.cfgW.toNat + (0 : BitVec 9).toNat := by rw [Nat.succ_mul]; rfl

/-- The last PIXEL of the frame ends it, any other stays in RUN (42_pack.md R156). -/
theorem pixelNext_mode {s : State} (hinv : s.Inv) (hrun : s.mode = .run) (p : Rgb Nat) :
    (pixelNext p s).mode = if s.pixcount.toNat + 1 = s.cfgW.toNat * s.cfgH.toNat then .done else .run := by
  obtain ⟨hpos, hcount⟩ := pixelNext_position hinv hrun p
  rw [← pixelNext_pixcount hinv hrun p, hcount]
  rcases hpos with ⟨hm, hx, hy⟩ | ⟨hm, hx, hy⟩
  · have hlt : (pixelNext p s).y.toNat * s.cfgW.toNat + (pixelNext p s).x.toNat < s.cfgW.toNat * s.cfgH.toNat :=
      bitIndex_lt hx hy .rowMajor
    rw [hm, if_neg hlt.ne]
  · rw [hm, hx, hy, if_pos (by simp [mul_comm])]

/-! ### The invariant -/

theorem pixelNext_row_lengths {s : State} (hinv : s.Inv) (hrun : s.mode = .run) (p : Rgb Nat) :
    (pixelNext p s).errCur.length = s.params.wMax ∧ (pixelNext p s).errNxt.length = s.params.wMax := by
  have hcur := hinv.cur_length
  have hnxt : (diffuse (pixelError p s) s).errNxt.length = s.params.wMax := by
    rw [diffuse_errNxt]
    split_ifs <;> simp [hinv.nxt_length]
  rcases hinv.column_cases hrun with hin | hend
  · rw [pixelNext_inRow hin]
    exact ⟨(diffuseRight_length ..).trans hcur, hnxt⟩
  · rw [pixelNext_rowEnd hend, endFrame_errCur, endFrame_errNxt]
    exact ⟨hnxt, zeroRow_length _⟩

/-- PIXEL in RUN keeps the invariant. -/
theorem pixelNext_inv {s : State} (hinv : s.Inv) (hrun : s.mode = .run) (p : Rgb Nat) : (pixelNext p s).Inv := by
  obtain ⟨hpos, hcount⟩ := pixelNext_position hinv hrun p
  obtain ⟨hcur, hnxt⟩ := pixelNext_row_lengths hinv hrun p
  have hinside := curIndex_inside hinv hrun
  have hcleared := hinv.frame_cleared (.inl hrun)
  have herr : s.errcode = 0 := hinv.errcode_zero.mpr (by simp [hrun])
  constructor
  case params_legal => simpa using hinv.params_legal
  case config_legal => simpa using hinv.config_legal
  case run_position =>
    intro hm
    rcases hpos with ⟨_, hx, hy⟩ | ⟨hdone, _⟩
    · simpa using ⟨hx, hy⟩
    · cases hm.symm.trans hdone
  case done_position =>
    intro hm
    rcases hpos with ⟨hrun', _⟩ | ⟨_, hx, hy⟩
    · cases hm.symm.trans hrun'
    · obtain ⟨hx0, hy0⟩ := hinv.run_position hrun
      have hw : s.cfgW ≠ 0 := fun h => by simp [h] at hx0
      have hh : s.cfgH ≠ 0 := fun h => by simp [h] at hy0
      simpa using ⟨hx, hy, hw, hh⟩
  case frame_pixcount => exact fun _ => by simpa using hcount
  case errcode_zero => rcases hpos with ⟨hm, _⟩ | ⟨hm, _⟩ <;> simp [hm, herr]
  case errcode_le => simpa using hinv.errcode_le
  case cur_length => simpa using hcur
  case nxt_length => simpa using hnxt
  case buf_wf =>
    rw [pixelNext_buf]
    exact writeByte_wf _ _ hinv.buf_wf
  case buf_inside =>
    rw [pixelNext_buf, pixelNext_params]
    exact writeByte_inside _ hinside hinv.buf_inside
  case frame_cleared => exact fun _ => by rw [pixelNext_buf, writeByte_fill, hcleared]
  case draw_last => exact .inl (by rw [pixelNext_buf, writeByte_fill, hcleared])

end Sys2Proof.Machine

/-! The error a PIXEL in RUN diffuses (41_dither.md R127): the rows of the line buffer after it, and the bounds that
keep every entry exact. -/

namespace Sys2Proof.Machine

theorem pixelError_within (p : Rgb Nat) (s : State) : entryWithin 65535 (pixelError p s) := by
  unfold pixelError
  split_ifs
  · exact entryWithin_zero (by decide)
  · exact quantError_adjusted_within ..

/-! ### The rows after the diffusion, held at 21 bits -/

/-- The kernel weight from the current position to column `i` of the row below: none in the frame's last row
(41_dither.md R127). -/
def lowerWeight (s : State) (i : Nat) : Int :=
  if s.y.toNat + 1 < s.cfgH.toNat then belowWeight s.cfgW.toNat s.x.toNat i else 0

theorem rowAt_errCur_diffuse {s : State} (hinv : s.Inv) (hrun : s.mode = .run) (q : Rgb Int) (i : Nat) :
    rowAt (diffuse q s).errCur i =
      heldAt21 (plusShare (rowAt s.errCur i) (rightWeight s.cfgW.toNat s.x.toNat i) q) := by
  obtain ⟨⟨_, hw, _⟩, _⟩ := hinv.run_ranges hrun
  exact rowAt_diffuseRight (fun h => hinv.cur_length ▸ h.trans_le hw) q i

theorem rowAt_errNxt_diffuse {s : State} (hinv : s.Inv) (hrun : s.mode = .run) (q : Rgb Int) (i : Nat) :
    rowAt (diffuse q s).errNxt i = heldAt21 (plusShare (rowAt s.errNxt i) (lowerWeight s i) q) := by
  obtain ⟨⟨hx, hw, _⟩, _⟩ := hinv.run_ranges hrun
  have hlen := hinv.nxt_length
  rw [diffuse_errNxt, lowerWeight]
  split_ifs
  · exact rowAt_diffuseBelow (hlen ▸ hx.trans_le hw) (fun h => hlen ▸ h.trans_le hw) q i
  · rw [plusShare_zero_weight, heldAt21_rowAt]

/-! ### The weights a column has received grow by those of the pixel just dithered -/

theorem rightWeight_nonneg (w x i : Nat) : 0 ≤ rightWeight w x i := by
  unfold rightWeight
  split_ifs <;> decide

theorem lowerWeight_nonneg (s : State) (i : Nat) : 0 ≤ lowerWeight s i := by
  unfold lowerWeight belowWeight
  split_ifs <;> decide

theorem curWeight_add_rightWeight_le (w x i : Nat) : curWeight x i + rightWeight w x i ≤ curWeight (x + 1) i := by
  unfold curWeight rightWeight
  split_ifs <;> omega

theorem nxtWeight_add_lowerWeight_le (s : State) (i : Nat) :
    nxtWeight s.x.toNat i + lowerWeight s i ≤ nxtWeight (s.x.toNat + 1) i := by
  unfold nxtWeight lowerWeight belowWeight
  split_ifs <;> omega

/-- The row below has received at most 3 + 5 + 1, which is what a row starts with when it becomes the current one. -/
theorem nxtWeight_le_curWeight (x y i : Nat) : nxtWeight x i ≤ curWeight y i := by
  unfold nxtWeight curWeight
  split_ifs <;> omega

theorem curWeight_le (x i : Nat) : curWeight x i ≤ 16 := by
  unfold curWeight
  split_ifs <;> decide

theorem nxtWeight_nonneg (x i : Nat) : 0 ≤ nxtWeight x i := by
  unfold nxtWeight
  split_ifs <;> decide

/-! ### No entry overflows -/

/-- An entry within its weight stays within the weight it reaches with a share of the pixel's error. -/
theorem plusShare_within_weight {a m b : Int} {e q : Rgb Int} (he : entryWithin (a * 65535) e)
    (hq : entryWithin 65535 q) (hm : 0 ≤ m) (hab : a + m ≤ b) : entryWithin (b * 65535) (plusShare e m q) :=
  entryWithin_mono (entryWithin_plusShare he hq hm) (by omega)

theorem heldAt21_of_weight {b : Int} {e : Rgb Int} (h : entryWithin (b * 65535) e) (hb : b ≤ 16) : heldAt21 e = e :=
  heldAt21_of_within (entryWithin_mono h (by omega))

section
variable {s : State} (hinv : s.Inv) (hline : s.LineBounded) (hrun : s.mode = .run) (p : Rgb Nat) (i : Nat)
include hline hrun

theorem plusShare_errCur_within : entryWithin (curWeight (s.x.toNat + 1) i * 65535)
    (plusShare (rowAt s.errCur i) (rightWeight s.cfgW.toNat s.x.toNat i) (pixelError p s)) :=
  plusShare_within_weight (hline.run_cur hrun i) (pixelError_within p s) (rightWeight_nonneg ..)
    (curWeight_add_rightWeight_le ..)

theorem plusShare_errNxt_within : entryWithin (nxtWeight (s.x.toNat + 1) i * 65535)
    (plusShare (rowAt s.errNxt i) (lowerWeight s i) (pixelError p s)) :=
  plusShare_within_weight (hline.run_nxt hrun i) (pixelError_within p s) (lowerWeight_nonneg ..)
    (nxtWeight_add_lowerWeight_le ..)

include hinv

/-- The current row after a PIXEL's diffusion, exactly. -/
theorem rowAt_errCur_diffuse_exact : rowAt (diffuse (pixelError p s) s).errCur i =
    plusShare (rowAt s.errCur i) (rightWeight s.cfgW.toNat s.x.toNat i) (pixelError p s) := by
  rw [rowAt_errCur_diffuse hinv hrun]
  exact heldAt21_of_weight (plusShare_errCur_within hline hrun p i) (curWeight_le ..)

/-- The row below after a PIXEL's diffusion, exactly. -/
theorem rowAt_errNxt_diffuse_exact : rowAt (diffuse (pixelError p s) s).errNxt i =
    plusShare (rowAt s.errNxt i) (lowerWeight s i) (pixelError p s) := by
  rw [rowAt_errNxt_diffuse hinv hrun]
  exact heldAt21_of_weight (plusShare_errNxt_within hline hrun p i)
    ((nxtWeight_le_curWeight _ 0 i).trans (curWeight_le ..))

/-- Within a row a PIXEL adds its shares to both rows. -/
theorem rowAt_pixelNext_inRow (hx : s.x.toNat + 1 < s.cfgW.toNat) :
    rowAt (pixelNext p s).errCur i =
        plusShare (rowAt s.errCur i) (rightWeight s.cfgW.toNat s.x.toNat i) (pixelError p s) ∧
      rowAt (pixelNext p s).errNxt i = plusShare (rowAt s.errNxt i) (lowerWeight s i) (pixelError p s) := by
  rw [pixelNext_inRow hx]
  exact ⟨rowAt_errCur_diffuse_exact hinv hline hrun p i, rowAt_errNxt_diffuse_exact hinv hline hrun p i⟩

/-- At the end of a row the lower row, with the PIXEL's shares, moves up, and 0 takes its place (41_dither.md R129). -/
theorem rowAt_pixelNext_rowEnd (hx : s.x.toNat + 1 = s.cfgW.toNat) :
    rowAt (pixelNext p s).errCur i = plusShare (rowAt s.errNxt i) (lowerWeight s i) (pixelError p s) ∧
      rowAt (pixelNext p s).errNxt i = Rgb.all 0 := by
  rw [pixelNext_rowEnd hx, endFrame_errCur, endFrame_errNxt]
  exact ⟨rowAt_errNxt_diffuse_exact hinv hline hrun p i, rowAt_zeroRow _ i⟩

end

/-- With dithering on, the error is the adjusted value less the level of the colour on its side of the threshold. -/
theorem pixelError_eq {s : State} (hdither : s.bypass = false) (p : Rgb Nat) :
    let v := adjusted p (rowAt s.errCur s.x.toNat)
    let level : Int := if v.r + v.g + v.b ≤ 98302 then 0 else 65535
    pixelError p s = ⟨v.r - level, v.g - level, v.b - level⟩ := by
  intro v level
  have hlevel : colourLevel (nearest v) = level := by rw [nearest_eq, apply_ite colourLevel]; rfl
  rw [← hlevel]
  exact if_neg (by simp [hdither])

/-- Settles O21: the rows of `pixelNext`, with its error and weights written out. -/
theorem pixelDiffusesItsError : Obligations.PixelDiffusesItsError := by
  intro s r g b hinv hline hrun hdither e v level q below
  have herr : pixelError ⟨r, g, b⟩ s = q := by
    rw [pixelError_eq hdither, adjusted_eq]
  have hbelow : ∀ i, plusShare (rowAt s.errNxt i) (lowerWeight s i) q = below i := fun i => by
    simp only [below, lowerWeight]
    split_ifs
    · rfl
    · exact plusShare_zero_weight ..
  refine ⟨_, execPixel_run hinv hrun r g b, fun hx i => ?_, fun hx i => ?_⟩
  · have hright : rightWeight s.cfgW.toNat s.x.toNat i = if i = s.x.toNat + 1 then 7 else 0 := by
      simp [rightWeight, hx]
    rw [← hright, ← hbelow, ← herr]
    exact rowAt_pixelNext_inRow hinv hline hrun _ i hx
  · rw [← hbelow, ← herr]
    exact rowAt_pixelNext_rowEnd hinv hline hrun _ i hx

/-! ### The bounds are kept -/

/-- Rows within the weights of the position are within the whole kernel's. -/
theorem lineBounded_of_weights {s : State}
    (hcur : ∀ i, entryWithin (curWeight s.x.toNat i * 65535) (rowAt s.errCur i))
    (hnxt : ∀ i, entryWithin (nxtWeight s.x.toNat i * 65535) (rowAt s.errNxt i))
    (hlast : s.mode = .run → s.y.toNat + 1 = s.cfgH.toNat → ∀ i, rowAt s.errNxt i = Rgb.all 0)
    (hdone : s.mode = .done → ∀ i, rowAt s.errCur i = Rgb.all 0 ∧ rowAt s.errNxt i = Rgb.all 0) :
    s.LineBounded where
  run_cur _ := hcur
  run_nxt _ := hnxt
  all_cur i := entryWithin_mono (hcur i) (mul_le_mul_of_nonneg_right (curWeight_le ..) (by decide))
  all_nxt i := entryWithin_mono (hnxt i)
    (mul_le_mul_of_nonneg_right ((nxtWeight_le_curWeight _ 0 i).trans (curWeight_le ..)) (by decide))
  last_row := hlast
  done_zero := hdone

/-- In the frame's last row the lower row is 0 and receives nothing. -/
theorem plusShare_errNxt_lastRow {s : State} (hline : s.LineBounded) (hrun : s.mode = .run)
    (hlast : s.y.toNat + 1 = s.cfgH.toNat) (q : Rgb Int) (i : Nat) :
    plusShare (rowAt s.errNxt i) (lowerWeight s i) q = Rgb.all 0 := by
  rw [lowerWeight, if_neg hlast.not_lt, plusShare_zero_weight]
  exact hline.last_row hrun hlast i

/-- PIXEL in RUN keeps the line buffer within its weights (10_state.md R30, 41_dither.md R137). -/
theorem pixelNext_lineBounded {s : State} (hinv : s.Inv) (hline : s.LineBounded) (hrun : s.mode = .run)
    (p : Rgb Nat) : (pixelNext p s).LineBounded := by
  rcases hinv.column_cases hrun with hin | hend
  · obtain ⟨hx, hy, hm⟩ := pixelNext_position_inRow hin p
    have rows := fun i => rowAt_pixelNext_inRow hinv hline hrun p i hin
    refine lineBounded_of_weights (fun i => ?_) (fun i => ?_) (fun _ hlast i => ?_) (fun hdone => ?_)
    · rw [hx, (rows i).1]
      exact plusShare_errCur_within hline hrun p i
    · rw [hx, (rows i).2]
      exact plusShare_errNxt_within hline hrun p i
    · rw [hy, pixelNext_cfgH] at hlast
      rw [(rows i).2]
      exact plusShare_errNxt_lastRow hline hrun hlast _ i
    · cases (hm.trans hrun).symm.trans hdone
  · obtain ⟨_, _, hm⟩ := pixelNext_position_rowEnd hend (hinv.run_position hrun).2 p
    have rows := fun i => rowAt_pixelNext_rowEnd hinv hline hrun p i hend
    refine lineBounded_of_weights (fun i => ?_) (fun i => ?_) (fun _ _ i => (rows i).2) (fun hdone i => ⟨?_, (rows i).2⟩)
    · rw [(rows i).1]
      exact entryWithin_mono (plusShare_errNxt_within hline hrun p i)
        (mul_le_mul_of_nonneg_right (nxtWeight_le_curWeight ..) (by decide))
    · rw [(rows i).2]
      exact entryWithin_zero (mul_nonneg (nxtWeight_nonneg ..) (by decide))
    · by_cases hlast : s.y.toNat + 1 = s.cfgH.toNat
      · rw [(rows i).1]
        exact plusShare_errNxt_lastRow hline hrun hlast _ i
      · rw [hm, if_neg hlast, hrun] at hdone
        cases hdone

end Sys2Proof.Machine

/-! Frames: the state START answers, and the pixels of a frame performed one after the other. -/

namespace Sys2Proof.Machine

theorem execAll_cons_next {i : Instr} {s t : State} (h : exec i s = .next t) (rest : List Instr) :
    execAll (i :: rest) s = execAll rest t := by
  simp [execAll, h]

/-- An accepted START is followed by the rest of the sequence from the new frame. -/
theorem execAll_start {s : State} (hm : s.mode = .idle ∨ s.mode = .done) (hw : s.cfgW ≠ 0) (hh : s.cfgH ≠ 0)
    (rest : List Instr) : execAll (.start :: rest) s = execAll rest (beginFrame s) := by
  have configured : unconfigured s = false := by
    rw [← Bool.not_eq_true, unconfigured_iff]
    exact not_or.mpr ⟨hw, hh⟩
  exact execAll_cons_next (i := .start) (execStart_accepted hm configured) rest

/-- START keeps the invariant of a configured state outside ERROR. -/
theorem beginFrame_inv {s : State} (hinv : s.Inv) (hm : s.mode ≠ .error) (hw : s.cfgW ≠ 0) (hh : s.cfgH ≠ 0) :
    (beginFrame s).Inv := by
  have herr : s.errcode = 0 := hinv.errcode_zero.mpr hm
  have hw0 : 0 < s.cfgW.toNat := by bv_omega
  have hh0 : 0 < s.cfgH.toNat := by bv_omega
  constructor
  case params_legal => exact hinv.params_legal
  case config_legal => exact hinv.config_legal
  case run_position => exact fun _ => ⟨hw0, hh0⟩
  case done_position => exact fun h => nomatch h
  case frame_pixcount => exact fun _ => by simp
  case errcode_zero => simp [herr]
  case errcode_le => exact hinv.errcode_le
  case cur_length => exact zeroRow_length s
  case nxt_length => exact zeroRow_length s
  case buf_wf => exact clearedBuf_wf
  case buf_inside => exact fun _ h => nomatch h
  case frame_cleared => exact fun _ => rfl
  case draw_last => exact .inl rfl

/-- START leaves a line buffer within its weights. -/
theorem beginFrame_lineBounded (s : State) : (beginFrame s).LineBounded := by
  refine lineBounded_of_weights (fun i => ?_) (fun i => ?_) (fun _ _ i => rowAt_zeroRow s i) (fun h => nomatch h)
  · rw [beginFrame_errCur, rowAt_zeroRow]
    exact entryWithin_zero (mul_nonneg ((nxtWeight_nonneg 0 i).trans (nxtWeight_le_curWeight ..)) (by decide))
  · rw [beginFrame_errNxt, rowAt_zeroRow]
    exact entryWithin_zero (mul_nonneg (nxtWeight_nonneg ..) (by decide))

end Sys2Proof.Machine

/-! The line buffer as a function of the canvas's errors (41_dither.md R137): the kernel sum at a target over a history of
errors, how one more error changes it, and that the rows hold it throughout a dithered frame. -/

namespace Sys2Proof.Machine

/-! ### The kernel sum at a target -/

/-- The kernel's weighted sum at column `i`, row `j` of a canvas `w` wide, over the errors `qs` of the pixels dithered so
far in raster order; a pixel outside the canvas or not yet dithered has no error. -/
def kernelSum (w : Nat) (qs : List (Rgb Int)) (i j : Nat) : Rgb Int :=
  let q := fun k => qs.getD k (Rgb.all 0)
  let left := shareOf (decide (1 ≤ i)) 7 (q (j * w + i - 1))
  let aboveLeft := shareOf (decide (1 ≤ i ∧ 1 ≤ j)) 1 (q ((j - 1) * w + i - 1))
  let above := shareOf (decide (1 ≤ j)) 5 (q ((j - 1) * w + i))
  let aboveRight := shareOf (decide (1 ≤ j ∧ i + 1 < w)) 3 (q ((j - 1) * w + i + 1))
  Rgb.zip (· + ·) (Rgb.zip (· + ·) left aboveLeft) (Rgb.zip (· + ·) above aboveRight)

/-- The weight with which the error of the `n`-th pixel enters the kernel sum at column `i`, row `j`. -/
def kernelWeight (w n i j : Nat) : Int :=
  ((if 1 ≤ i ∧ j * w + i - 1 = n then 7 else 0) + (if (1 ≤ i ∧ 1 ≤ j) ∧ (j - 1) * w + i - 1 = n then 1 else 0)) +
    ((if 1 ≤ j ∧ (j - 1) * w + i = n then 5 else 0) +
      (if (1 ≤ j ∧ i + 1 < w) ∧ (j - 1) * w + i + 1 = n then 3 else 0))

/-- A source that the guard admits is found at either of two indices that agree there. -/
theorem shareOf_index_congr {c : Prop} [Decidable c] (m : Int) (q : Nat → Rgb Int) {k k' : Nat} (h : c → k = k') :
    shareOf (decide c) m (q k) = shareOf (decide c) m (q k') := by
  by_cases hc : c
  · rw [h hc]
  · simp [shareOf, hc]

/-- The spec's accumulated error of the next pixel is the kernel sum at its position. -/
theorem accumulated_eq_kernelSum (w : Nat) (qs : List (Rgb Int)) :
    accumulated w qs = kernelSum w qs (qs.length % w) (qs.length / w) := by
  have hn : qs.length / w * w + qs.length % w = qs.length := Nat.div_add_mod' ..
  have habove : 1 ≤ qs.length / w → (qs.length / w - 1) * w + w = qs.length / w * w := fun h => by
    rw [← Nat.succ_mul, Nat.succ_eq_add_one, Nat.sub_add_cancel h]
  unfold accumulated kernelSum
  refine congrArg₂ (Rgb.zip _) (congrArg₂ (Rgb.zip _) ?_ ?_) (congrArg₂ (Rgb.zip _) ?_ ?_)
  · exact shareOf_index_congr 7 (fun k => qs.getD k (Rgb.all 0)) (fun _ => by omega)
  · exact shareOf_index_congr 1 (fun k => qs.getD k (Rgb.all 0)) (fun h => by have := habove h.2; omega)
  · exact shareOf_index_congr 5 (fun k => qs.getD k (Rgb.all 0)) (fun h => by have := habove h; omega)
  · exact shareOf_index_congr 3 (fun k => qs.getD k (Rgb.all 0)) (fun h => by have := habove h.1; omega)

/-! ### One more error -/

/-- In a history one error longer a source has gained that error exactly at its index. -/
theorem shareOf_getD_append {c : Prop} [Decidable c] (m : Int) (qs : List (Rgb Int)) (q : Rgb Int) (k : Nat) :
    shareOf (decide c) m ((qs ++ [q]).getD k (Rgb.all 0)) =
      plusShare (shareOf (decide c) m (qs.getD k (Rgb.all 0))) (if c ∧ k = qs.length then m else 0) q := by
  rcases lt_trichotomy k qs.length with hk | rfl | hk
  · rw [List.getD_append _ _ _ _ hk, if_neg (fun h => hk.ne h.2), plusShare_zero_weight]
  · by_cases hc : c <;> simp [shareOf, hc, plusShare, Rgb.zip, Rgb.map, Rgb.all]
  · rw [List.getD_eq_default _ _ (by simpa using hk), List.getD_eq_default _ _ hk.le, if_neg (fun h => hk.ne' h.2),
      plusShare_zero_weight]

theorem zip_add_plusShare (a b q : Rgb Int) (m n : Int) :
    Rgb.zip (· + ·) (plusShare a m q) (plusShare b n q) = plusShare (Rgb.zip (· + ·) a b) (m + n) q := by
  simp only [plusShare, Rgb.zip, Rgb.mk.injEq]
  refine ⟨?_, ?_, ?_⟩ <;> ring

/-- One more error enters the kernel sum with the kernel's weight from its pixel to the target. -/
theorem kernelSum_append (w : Nat) (qs : List (Rgb Int)) (q : Rgb Int) (i j : Nat) :
    kernelSum w (qs ++ [q]) i j = plusShare (kernelSum w qs i j) (kernelWeight w qs.length i j) q := by
  simp only [kernelSum, kernelWeight, shareOf_getD_append, zip_add_plusShare]

/-- A source that is not in the history has no share. -/
theorem shareOf_getD_eq_zero {c : Prop} [Decidable c] {qs : List (Rgb Int)} {k : Nat} (m : Int)
    (h : c → qs.length ≤ k) : shareOf (decide c) m (qs.getD k (Rgb.all 0)) = Rgb.all 0 := by
  by_cases hc : c
  · rw [List.getD_eq_default _ _ (h hc)]
    simp [shareOf, Rgb.map, Rgb.all]
  · simp [shareOf, hc]

/-- A history that ends before the row above the target has given it nothing. -/
theorem kernelSum_eq_zero {w j : Nat} {qs : List (Rgb Int)} (h : qs.length ≤ (j - 1) * w) (i : Nat) :
    kernelSum w qs i j = Rgb.all 0 := by
  have hrow : (j - 1) * w ≤ j * w := Nat.mul_le_mul_right w (Nat.sub_le j 1)
  dsimp only [kernelSum]
  rw [shareOf_getD_eq_zero 7 (fun _ => by omega), shareOf_getD_eq_zero 1 (fun _ => by omega),
    shareOf_getD_eq_zero 5 (fun _ => by omega), shareOf_getD_eq_zero 3 (fun _ => by omega)]
  rfl

/-- To its own row pixel (x, y) gives the datapath's share to the right. -/
theorem kernelWeight_same_row {w x i : Nat} (y : Nat) (hi : i < w) :
    kernelWeight w (y * w + x) i y = rightWeight w x i := by
  cases y with
  | zero =>
    unfold kernelWeight rightWeight
    split_ifs <;> omega
  | succ k =>
    unfold kernelWeight rightWeight
    rw [Nat.succ_mul, Nat.add_sub_cancel]
    split_ifs <;> omega

/-- To the row below pixel (x, y) gives the datapath's three shares. -/
theorem kernelWeight_row_below {w x i : Nat} (y : Nat) (hx : x < w) (hi : i < w) :
    kernelWeight w (y * w + x) i (y + 1) = belowWeight w x i := by
  unfold kernelWeight belowWeight
  rw [Nat.succ_mul, Nat.add_sub_cancel]
  split_ifs <;> omega

/-! ### The rows hold the kernel sums -/

/-- The rows of the line buffer hold the kernel sums of the current row and of the one below it over the errors `qs` of
the frame's pixels so far (10_state.md R30, 41_dither.md R137). -/
structure State.HoldsCanvas (qs : List (Rgb Int)) (s : State) : Prop where
  count : s.pixcount.toNat = qs.length
  cur : ∀ i < s.cfgW.toNat, rowAt s.errCur i = kernelSum s.cfgW.toNat qs i s.y.toNat
  nxt : s.y.toNat + 1 < s.cfgH.toNat →
    ∀ i < s.cfgW.toNat, rowAt s.errNxt i = kernelSum s.cfgW.toNat qs i (s.y.toNat + 1)

theorem beginFrame_holdsCanvas (s : State) : (beginFrame s).HoldsCanvas [] where
  count := rfl
  cur i _ := by rw [beginFrame_errCur, rowAt_zeroRow, kernelSum_eq_zero (Nat.zero_le _)]
  nxt _ i _ := by rw [beginFrame_errNxt, rowAt_zeroRow, kernelSum_eq_zero (Nat.zero_le _)]

/-- In RUN the history's length is the position's number in raster order. -/
theorem State.HoldsCanvas.length_eq {qs : List (Rgb Int)} {s : State} (hcanvas : s.HoldsCanvas qs) (hinv : s.Inv)
    (hrun : s.mode = .run) : qs.length = s.y.toNat * s.cfgW.toNat + s.x.toNat :=
  hcanvas.count.symm.trans (hinv.frame_pixcount (.inl hrun))

/-- The entry that the next pixel reads is its accumulated error over the canvas. -/
theorem State.HoldsCanvas.rowAt_x {qs : List (Rgb Int)} {s : State} (hcanvas : s.HoldsCanvas qs) (hinv : s.Inv)
    (hrun : s.mode = .run) : rowAt s.errCur s.x.toNat = accumulated s.cfgW.toNat qs := by
  obtain ⟨hx, _⟩ := hinv.run_position hrun
  have hlen := hcanvas.length_eq hinv hrun
  have hmod : qs.length % s.cfgW.toNat = s.x.toNat := by
    rw [hlen, Nat.mul_add_mod', Nat.mod_eq_of_lt hx]
  have hdiv : qs.length / s.cfgW.toNat = s.y.toNat := by
    rw [hlen, Nat.add_comm, Nat.add_mul_div_right _ _ (Nat.zero_lt_of_lt hx), Nat.div_eq_of_lt hx, Nat.zero_add]
  rw [accumulated_eq_kernelSum, hmod, hdiv]
  exact hcanvas.cur _ hx

/-- A PIXEL that leaves the frame in RUN adds its error to the canvas that the rows hold. -/
theorem pixelNext_holdsCanvas {qs : List (Rgb Int)} {s : State} (hcanvas : s.HoldsCanvas qs) (hinv : s.Inv)
    (hline : s.LineBounded) (hrun : s.mode = .run) (p : Rgb Nat) (hnext : (pixelNext p s).mode = .run) :
    (pixelNext p s).HoldsCanvas (qs ++ [pixelError p s]) := by
  obtain ⟨hx, hy⟩ := hinv.run_position hrun
  have hlen := hcanvas.length_eq hinv hrun
  have hcount : (pixelNext p s).pixcount.toNat = (qs ++ [pixelError p s]).length := by
    rw [pixelNext_pixcount hinv hrun, hcanvas.count, List.length_append, List.length_singleton]
  have hcur : ∀ i < s.cfgW.toNat,
      plusShare (rowAt s.errCur i) (rightWeight s.cfgW.toNat s.x.toNat i) (pixelError p s) =
        kernelSum s.cfgW.toNat (qs ++ [pixelError p s]) i s.y.toNat := fun i hi => by
    rw [kernelSum_append, hlen, kernelWeight_same_row _ hi, hcanvas.cur i hi]
  have hnxt : s.y.toNat + 1 < s.cfgH.toNat → ∀ i < s.cfgW.toNat,
      plusShare (rowAt s.errNxt i) (lowerWeight s i) (pixelError p s) =
        kernelSum s.cfgW.toNat (qs ++ [pixelError p s]) i (s.y.toNat + 1) := fun hbelow i hi => by
    rw [kernelSum_append, hlen, kernelWeight_row_below _ hx hi, hcanvas.nxt hbelow i hi, lowerWeight, if_pos hbelow]
  rcases hinv.column_cases hrun with hin | hend
  · obtain ⟨_, hy', _⟩ := pixelNext_position_inRow hin p
    have rows := fun i => rowAt_pixelNext_inRow hinv hline hrun p i hin
    refine ⟨hcount, fun i hi => ?_, fun hbelow i hi => ?_⟩
    · rw [pixelNext_cfgW] at hi ⊢
      rw [hy', (rows i).1, hcur i hi]
    · rw [pixelNext_cfgW] at hi ⊢
      rw [hy', pixelNext_cfgH] at hbelow
      rw [hy', (rows i).2, hnxt hbelow i hi]
  · obtain ⟨_, hy', hm⟩ := pixelNext_position_rowEnd hend hy p
    have rows := fun i => rowAt_pixelNext_rowEnd hinv hline hrun p i hend
    have hbelow : s.y.toNat + 1 < s.cfgH.toNat := by
      refine Nat.lt_of_le_of_ne hy fun hlast => ?_
      rw [hm, if_pos hlast] at hnext
      cases hnext
    refine ⟨hcount, fun i hi => ?_, fun _ i hi => ?_⟩
    · rw [pixelNext_cfgW] at hi ⊢
      rw [hy', (rows i).1, hnxt hbelow i hi]
    · rw [(rows i).2, pixelNext_cfgW, hy', kernelSum_eq_zero]
      rw [List.length_append, hlen, List.length_singleton, Nat.add_sub_cancel, add_assoc, hend, Nat.succ_mul]

/-! ### A dithered frame, pixel by pixel -/

/-- A dithered frame in progress, `qs` the errors of its pixels so far. -/
structure State.Dithering (qs : List (Rgb Int)) (s : State) : Prop where
  inv : s.Inv
  line : s.LineBounded
  run : s.mode = .run
  dither : s.bypass = false
  canvas : s.HoldsCanvas qs

/-- The error diffused is the one that the canvas gives the pixel. -/
theorem State.Dithering.pixelError_eq {qs : List (Rgb Int)} {s : State} (h : s.Dithering qs) (p : Rgb Nat) :
    pixelError p s = quantError (canvasValue s.cfgW.toNat qs p) (nearest (canvasValue s.cfgW.toNat qs p)) := by
  have hx := h.canvas.rowAt_x h.inv h.run
  simp [pixelError, h.dither, hx, canvasValue]

theorem State.Dithering.pixelNext {qs : List (Rgb Int)} {s : State} (h : s.Dithering qs)
    (hmore : qs.length + 1 < s.cfgW.toNat * s.cfgH.toNat) (p : Rgb Nat) :
    (pixelNext p s).Dithering (qs ++ [pixelError p s]) := by
  have hrun : (Machine.pixelNext p s).mode = .run := by
    rw [pixelNext_mode h.inv h.run, h.canvas.count, if_neg hmore.ne]
  exact ⟨pixelNext_inv h.inv h.run p, pixelNext_lineBounded h.inv h.line h.run p, hrun,
    (pixelNext_bypass p s).trans h.dither, pixelNext_holdsCanvas h.canvas h.inv h.line h.run p hrun⟩

/-- Pixels short of a frame leave a dithered frame in progress, its errors those of the canvas. -/
theorem execAll_pixels_dithering (ps : List (Rgb Nat)) {qs : List (Rgb Int)} {s : State} (h : s.Dithering qs)
    (hmore : qs.length + ps.length < s.cfgW.toNat * s.cfgH.toNat) :
    ∃ t, execAll (pixels ps) s = .next t ∧ t.cfgW = s.cfgW ∧ t.Dithering (canvasErrors s.cfgW.toNat qs ps) := by
  induction ps generalizing qs s with
  | nil => exact ⟨s, rfl, rfl, h⟩
  | cons p ps ih =>
    rw [List.length_cons] at hmore
    have hnext := h.pixelNext (by omega) p
    obtain ⟨t, ht, hw, hcanvas⟩ := ih hnext (by
      rw [List.length_append, List.length_singleton, pixelNext_cfgW, pixelNext_cfgH]
      omega)
    refine ⟨t, ?_, hw.trans (pixelNext_cfgW p s), ?_⟩
    · exact (execAll_cons_next (i := .pixel p.r p.g p.b) (execPixel_run h.inv h.run ..) _).trans ht
    · rw [pixelNext_cfgW, h.pixelError_eq] at hcanvas
      exact hcanvas

/-- Settles O49: from START the frame is `Dithering` its canvas's errors, so the entry read is their kernel sum. -/
theorem lineBufferHoldsKernelSum : Obligations.LineBufferHoldsKernelSum := by
  intro s ps hinv hm hw hh hdither hlen
  have hbegin : (beginFrame s).Dithering [] :=
    ⟨beginFrame_inv hinv (not_error_not_run hm).1 hw hh, beginFrame_lineBounded s, rfl, hdither,
      beginFrame_holdsCanvas s⟩
  obtain ⟨t, ht, hcfg, hrest⟩ := execAll_pixels_dithering ps hbegin (by simpa using hlen)
  have hkernel := hrest.canvas.rowAt_x hrest.inv hrest.run
  rw [hcfg] at hkernel
  exact ⟨t, (execAll_start hm hw hh _).trans ht, hkernel, hrest.line.all_cur _⟩

end Sys2Proof.Machine

/-! What a frame's BUF depends on (41_dither.md R136): states that agree on what a PIXEL reads keep agreeing under the
same pixels, and NOPs and reads between them change none of it. -/

namespace Sys2Proof.Machine

/-! ### Agreement on what a PIXEL reads and writes -/

/-- Two states agree on STATE, the configuration, the position, every line-buffer entry and every byte of BUF. -/
structure SameFrame (s u : State) : Prop where
  mode : s.mode = u.mode
  config : s.configuration = u.configuration
  x : s.x = u.x
  y : s.y = u.y
  cur : ∀ i, rowAt s.errCur i = rowAt u.errCur i
  nxt : ∀ i, rowAt s.errNxt i = rowAt u.errNxt i
  mem : ∀ a, memRead a s = memRead a u

/-- START leaves nothing of a PIXEL's inputs but the configuration to what came before. -/
theorem beginFrame_sameFrame {s u : State} (h : s.configuration = u.configuration) :
    SameFrame (beginFrame s) (beginFrame u) where
  mode := rfl
  config := h
  x := rfl
  y := rfl
  cur i := (rowAt_zeroRow s i).trans (rowAt_zeroRow u i).symm
  nxt i := (rowAt_zeroRow s i).trans (rowAt_zeroRow u i).symm
  mem a := (memRead_beginFrame a s).trans (memRead_beginFrame a u).symm

theorem SameFrame.respond_left {s u : State} (h : SameFrame s u) (v : RegValue) : SameFrame (respond v s) u :=
  ⟨h.mode, h.config, h.x, h.y, h.cur, h.nxt, h.mem⟩

theorem SameFrame.raiseError {s u : State} (h : SameFrame s u) (c : ErrCode) :
    SameFrame (raiseError c s) (raiseError c u) :=
  ⟨rfl, h.config, h.x, h.y, h.cur, h.nxt, h.mem⟩

section
variable {s u : State} (h : SameFrame s u)
include h

theorem SameFrame.dims : s.cfgW = u.cfgW ∧ s.cfgH = u.cfgH ∧ s.trav = u.trav ∧ s.bypass = u.bypass :=
  (configuration_eq_iff u s).mp h.config

theorem SameFrame.curIndex : curIndex s = curIndex u := by
  obtain ⟨hw, hh, htrav, _⟩ := h.dims
  simp only [Machine.curIndex, hw, hh, htrav, h.x, h.y]

theorem SameFrame.bitOfPixel (p : Rgb Nat) : bitOfPixel p s = bitOfPixel p u := by
  obtain ⟨_, _, _, hbypass⟩ := h.dims
  simp only [Machine.bitOfPixel, hbypass, h.x, h.cur]

theorem SameFrame.pixelError (p : Rgb Nat) : pixelError p s = pixelError p u := by
  obtain ⟨_, _, _, hbypass⟩ := h.dims
  simp only [Machine.pixelError, hbypass, h.x, h.cur]

theorem SameFrame.lowerWeight (i : Nat) : lowerWeight s i = lowerWeight u i := by
  obtain ⟨hw, hh, _⟩ := h.dims
  simp only [Machine.lowerWeight, hw, hh, h.x, h.y]

theorem SameFrame.countPixel : SameFrame (countPixel s) (countPixel u) :=
  ⟨h.mode, h.config, congrArg (· + 1) h.x, h.y, h.cur, h.nxt, h.mem⟩

theorem SameFrame.endRow : SameFrame (endRow s) (endRow u) :=
  ⟨h.mode, h.config, rfl, congrArg (· + 1) h.y, h.nxt, fun i => (rowAt_zeroRow s i).trans (rowAt_zeroRow u i).symm,
    h.mem⟩

theorem SameFrame.endFrame : SameFrame (endFrame s) (endFrame u) := by
  obtain ⟨_, hh, _⟩ := h.dims
  have same : s.y = s.cfgH ↔ u.y = u.cfgH := by rw [h.y, hh]
  unfold Machine.endFrame
  by_cases hlast : s.y = s.cfgH
  · rw [if_pos hlast, if_pos (same.mp hlast)]
    exact ⟨rfl, h.config, h.x, h.y, h.cur, h.nxt, h.mem⟩
  · rw [if_neg hlast, if_neg (mt same.mpr hlast)]
    exact h

/-- Both advances take the same branch. -/
theorem SameFrame.advance : SameFrame (advance s) (advance u) := by
  obtain ⟨hw, _⟩ := h.dims
  have same : s.x + 1 = s.cfgW ↔ u.x + 1 = u.cfgW := by rw [h.x, hw]
  rcases advance_cases s with ⟨hin, es⟩ | ⟨hend, es⟩
  · have eu : Machine.advance u = Machine.countPixel u := if_neg (mt same.mpr hin)
    rw [es, eu]
    exact h.countPixel
  · have eu : Machine.advance u = Machine.endFrame (Machine.endRow (Machine.countPixel u)) :=
      if_pos (same.mp hend)
    rw [es, eu]
    exact h.countPixel.endRow.endFrame

/-- The same pixel stored at the same position: the same entries and the same byte. -/
theorem SameFrame.storePixel (hs : s.Inv) (hu : u.Inv) (hrun : s.mode = .run) (p : Rgb Nat) :
    SameFrame (storePixel p s) (storePixel p u) where
  mode := h.mode
  config := h.config
  x := h.x
  y := h.y
  cur i := by
    show rowAt (diffuse _ s).errCur i = rowAt (diffuse _ u).errCur i
    rw [rowAt_errCur_diffuse hs hrun, rowAt_errCur_diffuse hu (h.mode ▸ hrun), h.cur, h.dims.1, h.x, h.pixelError]
  nxt i := by
    show rowAt (diffuse _ s).errNxt i = rowAt (diffuse _ u).errNxt i
    rw [rowAt_errNxt_diffuse hs hrun, rowAt_errNxt_diffuse hu (h.mode ▸ hrun), h.nxt, h.lowerWeight, h.pixelError]
  mem a := by
    have diffused : ∀ (q : Rgb Int) (t : State), memRead a (diffuse q t) = memRead a t := fun _ _ => rfl
    simp only [Machine.storePixel, memRead_memWrite, diffused, h.curIndex, h.bitOfPixel, h.mem]

theorem SameFrame.pixelNext (hs : s.Inv) (hu : u.Inv) (hrun : s.mode = .run) (p : Rgb Nat) :
    SameFrame (pixelNext p s) (pixelNext p u) :=
  (h.storePixel hs hu hrun p).advance

end

/-! ### Sequences of NOPs, reads and pixels -/

/-- A response is no part of the invariant. -/
theorem respond_inv {s : State} (hinv : s.Inv) (v : RegValue) : (respond v s).Inv :=
  ⟨hinv.params_legal, hinv.config_legal, hinv.run_position, hinv.done_position, hinv.frame_pixcount,
    hinv.errcode_zero, hinv.errcode_le, hinv.cur_length, hinv.nxt_length, hinv.buf_wf, hinv.buf_inside,
    hinv.frame_cleared, hinv.draw_last⟩

/-- An error keeps the invariant. -/
theorem raiseError_inv {s : State} (hinv : s.Inv) (c : ErrCode) : (raiseError c s).Inv where
  params_legal := hinv.params_legal
  config_legal := hinv.config_legal
  run_position h := nomatch h
  done_position h := nomatch h
  frame_pixcount h := by simp at h
  errcode_zero := iff_of_false (errBits_ne_zero c) (fun h => h rfl)
  errcode_le := errBits_le c
  cur_length := hinv.cur_length
  nxt_length := hinv.nxt_length
  buf_wf := hinv.buf_wf
  buf_inside := hinv.buf_inside
  frame_cleared h := by simp at h
  draw_last := hinv.draw_last

theorem execPixel_notRun {s : State} (hm : s.mode = .idle ∨ s.mode = .done) (r g b : Nat) :
    execPixel r g b s = .next (raiseError .eNotRun s) := by
  obtain ⟨herr, hrun⟩ := not_error_not_run hm
  simp [execPixel, unlessError_else herr, hrun]

/-- PIXEL, in every STATE, answers states that agree from states that agree. -/
theorem execPixel_sameFrame {s u : State} (h : SameFrame s u) (hs : s.Inv) (hu : u.Inv) (r g b : Nat) :
    ∃ t v, execPixel r g b s = .next t ∧ execPixel r g b u = .next v ∧ SameFrame t v ∧ t.Inv ∧ v.Inv := by
  have refused (hm : s.mode = .idle ∨ s.mode = .done) :
      ∃ t v, execPixel r g b s = .next t ∧ execPixel r g b u = .next v ∧ SameFrame t v ∧ t.Inv ∧ v.Inv :=
    ⟨_, _, execPixel_notRun hm .., execPixel_notRun (h.mode ▸ hm) .., h.raiseError _, raiseError_inv hs _,
      raiseError_inv hu _⟩
  cases hm : s.mode with
  | idle => exact refused (.inl hm)
  | done => exact refused (.inr hm)
  | error =>
    exact ⟨s, u, unlessError_error hm _, unlessError_error (h.mode ▸ hm) _, h, hs, hu⟩
  | run =>
    have hm' : u.mode = .run := h.mode ▸ hm
    exact ⟨_, _, execPixel_run hs hm .., execPixel_run hu hm' .., h.pixelNext hs hu hm _, pixelNext_inv hs hm _,
      pixelNext_inv hu hm' _⟩

/-- A sequence of NOPs, reads and pixels ends as its pixels alone do from a state that agrees. -/
theorem execAll_sameFrame (l : List Instr) {s u : State} (hl : ∀ i ∈ l, frameInstr i = true) (h : SameFrame s u)
    (hs : s.Inv) (hu : u.Inv) :
    ∃ t v, execAll l s = .next t ∧ execAll (pixels (pixelsOf l)) u = .next v ∧ SameFrame t v := by
  induction l generalizing s u with
  | nil => exact ⟨s, u, rfl, rfl, h⟩
  | cons i rest ih =>
    obtain ⟨hi, hrest⟩ := List.forall_mem_cons.mp hl
    cases i with
    | nop =>
      obtain ⟨t, v, ht, hv, htv⟩ := ih hrest h hs hu
      exact ⟨t, v, (execAll_cons_next (i := .nop) (execNop_eq s) _).trans ht, hv, htv⟩
    | readReg n =>
      obtain ⟨t, v, ht, hv, htv⟩ := ih hrest (h.respond_left (regValue n s)) (respond_inv hs _) hu
      exact ⟨t, v, ht, hv, htv⟩
    | readBuf a =>
      obtain ⟨t, v, ht, hv, htv⟩ := ih hrest (h.respond_left (bufValue a s)) (respond_inv hs _) hu
      exact ⟨t, v, ht, hv, htv⟩
    | pixel r g b =>
      obtain ⟨s', u', hs', hu', h', hinv, hinv'⟩ := execPixel_sameFrame h hs hu r g b
      obtain ⟨t, v, ht, hv, htv⟩ := ih hrest h' hinv hinv'
      exact ⟨t, v, (execAll_cons_next (i := .pixel r g b) hs' _).trans ht,
        (execAll_cons_next (i := .pixel r g b) hu' _).trans hv, htv⟩
    | config w h trav bypass => cases hi
    | profile sel => cases hi
    | start => cases hi
    | clear => cases hi

/-- Pixels from a state in RUN up to the frame's size end it in DONE (42_pack.md R156). -/
theorem execAll_pixels_done (ps : List (Rgb Nat)) {s : State} (hinv : s.Inv) (hrun : s.mode = .run)
    (hlen : s.pixcount.toNat + ps.length = s.cfgW.toNat * s.cfgH.toNat) :
    ∃ t, execAll (pixels ps) s = .next t ∧ t.mode = .done := by
  induction ps generalizing s with
  | nil => exact absurd hlen (pixcount_lt hinv hrun).ne
  | cons p ps ih =>
    rw [List.length_cons] at hlen
    have hfirst : execAll (pixels (p :: ps)) s = execAll (pixels ps) (pixelNext p s) :=
      execAll_cons_next (i := .pixel p.r p.g p.b) (execPixel_run hinv hrun ..) _
    have hm := pixelNext_mode hinv hrun p
    rw [hfirst]
    by_cases hlast : s.pixcount.toNat + 1 = s.cfgW.toNat * s.cfgH.toNat
    · obtain rfl : ps = [] := List.length_eq_zero_iff.mp (by omega)
      exact ⟨_, rfl, hm.trans (if_pos hlast)⟩
    · refine ih (pixelNext_inv hinv hrun p) (hm.trans (if_neg hlast)) ?_
      rw [pixelNext_pixcount hinv hrun, pixelNext_cfgW, pixelNext_cfgH]
      omega

/-- Settles O51: both sequences end as the pixels alone do from the first state's START. -/
theorem frameIsFunctionOfPixels : Obligations.FrameIsFunctionOfPixels := by
  intro s s' l l' hinv hinv' hm hm' hw hh htrav hbypass hw0 hh0 hl hl' hpixels hlen
  have config : s'.configuration = s.configuration :=
    (configuration_eq_iff s s').mpr ⟨hw.symm, hh.symm, htrav.symm, hbypass.symm⟩
  have hbegin := beginFrame_inv hinv (not_error_not_run hm).1 hw0 hh0
  have hbegin' := beginFrame_inv hinv' (not_error_not_run hm').1 (hw ▸ hw0) (hh ▸ hh0)
  obtain ⟨v, hv, hdone⟩ := execAll_pixels_done (pixelsOf l) hbegin rfl (by simpa using hlen)
  obtain ⟨t, v₁, ht, hv₁, htv⟩ := execAll_sameFrame l hl (beginFrame_sameFrame rfl) hbegin hbegin
  obtain ⟨t', v₂, ht', hv₂, htv'⟩ := execAll_sameFrame l' hl' (beginFrame_sameFrame config) hbegin' hbegin
  obtain rfl : v₁ = v := Host.Outcome.next.inj (hv₁.symm.trans hv)
  obtain rfl : v₂ = v₁ := Host.Outcome.next.inj ((hpixels ▸ hv₂).symm.trans hv₁)
  exact ⟨t, t', (execAll_start hm hw0 hh0 l).trans ht, (execAll_start hm' (hw ▸ hw0) (hh ▸ hh0) l').trans ht',
    htv.mode.trans hdone, htv'.mode.trans hdone, fun a _ => (htv.mem a).trans (htv'.mem a).symm⟩

end Sys2Proof.Machine

/-! The bit packer (42_pack.md): the traversals as bijections (R150), the Bit Buffer's length (R157), and the one bit of
BUF that a PIXEL in RUN decides (R152). -/

namespace Sys2Proof.Machine

/-! ### The traversals (42_pack.md R150) -/

/-- The index of item `r` of the `q`-th group of `n` gives both back. -/
theorem mul_add_div_mod {n r : Nat} (hr : r < n) (q : Nat) : (q * n + r) / n = q ∧ (q * n + r) % n = r :=
  (Nat.div_mod_unique (Nat.zero_lt_of_lt hr)).mpr ⟨by ring, hr⟩

theorem bitIndex_columnMajor_inverse {h y : Nat} (hy : y < h) (w x : Nat) :
    bitIndex .columnMajor w h x y / h = x ∧ bitIndex .columnMajor w h x y % h = y :=
  mul_add_div_mod hy x

theorem bitIndex_rowMajor_inverse {w x : Nat} (hx : x < w) (h y : Nat) :
    bitIndex .rowMajor w h x y % w = x ∧ bitIndex .rowMajor w h x y / w = y :=
  (mul_add_div_mod hx y).symm

theorem bitIndex_injective {trav : Traversal} {w h x y x' y' : Nat} (hx : x < w) (hy : y < h) (hx' : x' < w)
    (hy' : y' < h) (heq : bitIndex trav w h x' y' = bitIndex trav w h x y) : x' = x ∧ y' = y := by
  cases trav with
  | columnMajor =>
    obtain ⟨hdiv, hmod⟩ := bitIndex_columnMajor_inverse hy' w x'
    rw [heq] at hdiv hmod
    obtain ⟨hcol, hrow⟩ := bitIndex_columnMajor_inverse hy w x
    exact ⟨hdiv.symm.trans hcol, hmod.symm.trans hrow⟩
  | rowMajor =>
    obtain ⟨hmod, hdiv⟩ := bitIndex_rowMajor_inverse hx' h y'
    rw [heq] at hmod hdiv
    obtain ⟨hcol, hrow⟩ := bitIndex_rowMajor_inverse hx h y
    exact ⟨hmod.symm.trans hcol, hdiv.symm.trans hrow⟩

theorem bitIndex_surjective (trav : Traversal) {w h k : Nat} (hk : k < w * h) :
    ∃ x y, x < w ∧ y < h ∧ bitIndex trav w h x y = k := by
  have hw : 0 < w := Nat.pos_of_mul_pos_right (Nat.zero_lt_of_lt hk)
  have hh : 0 < h := Nat.pos_of_mul_pos_left (Nat.zero_lt_of_lt hk)
  cases trav with
  | columnMajor =>
    exact ⟨k / h, k % h, Nat.div_lt_of_lt_mul (by rwa [mul_comm]), Nat.mod_lt k hh, Nat.div_add_mod' ..⟩
  | rowMajor => exact ⟨k % w, k / w, Nat.mod_lt k hw, Nat.div_lt_of_lt_mul hk, Nat.div_add_mod' ..⟩

/-- Settles O33: the formulas are the definition's, the rest is the range, the inverses and the two halves of the
bijection. -/
theorem bitIndexIsBijective : Obligations.BitIndexIsBijective := by
  intro w h x y hx hy
  exact ⟨rfl, rfl, bitIndex_lt hx hy, bitIndex_columnMajor_inverse hy w x, bitIndex_rowMajor_inverse hx h y,
    fun trav k hk => bitIndex_surjective trav hk,
    fun trav x' y' hx' hy' heq => bitIndex_injective hx hy hx' hy' heq⟩

/-- Settles O34: the rule's table evaluated. -/
theorem indexExamplesOfProfileTarget : Obligations.IndexExamplesOfProfileTarget := by
  unfold Obligations.IndexExamplesOfProfileTarget
  decide

/-! ### The Bit Buffer's length (42_pack.md R157) -/

theorem bufLen_eq (s : State) : bufLen s = (s.cfgW.toNat * s.cfgH.toNat + 7) / 8 := rfl

theorem bufLen_of_dims {s : State} {w h : BitVec 9} (hw : s.cfgW = w) (hh : s.cfgH = h) :
    bufLen s = (w.toNat * h.toNat + 7) / 8 := by
  rw [bufLen_eq, hw, hh]

/-- Settles O35: the quotient's bounds, and its value at the three sizes. -/
theorem bitBufferLengthIsCeiling : Obligations.BitBufferLengthIsCeiling := by
  refine ⟨fun s => ?_, fun s => ⟨fun hw hh => ?_, fun hw hh => ?_, fun hw hh => ?_⟩⟩
  · rw [bufLen_eq]
    exact ⟨by omega, by omega, regValue_buflen s⟩
  all_goals
    rw [bufLen_of_dims hw hh]
    decide

/-! ### The byte and the bit that a PIXEL writes (42_pack.md R152) -/

/-- Bit index `k`'s weight within its byte, where the bit is 1. -/
theorem setBit_eq (b : Byte) (k : Nat) (bit : Bool) :
    setBit b k bit = b ||| if bit then BitVec.twoPow 8 (7 - k % 8) else 0#8 := by
  cases bit <;> simp [setBit, BitVec.twoPow_eq]

theorem setBit_eq_ofNat (b : Byte) (k : Nat) (bit : Bool) :
    setBit b k bit = b ||| BitVec.ofNat 8 (if bit then 2 ^ (7 - k % 8) else 0) := by
  have htwo : BitVec.twoPow 8 (7 - k % 8) = BitVec.ofNat 8 (2 ^ (7 - k % 8)) :=
    BitVec.eq_of_toNat_eq (BitVec.toNat_twoPow ..)
  rw [setBit_eq, apply_ite (BitVec.ofNat 8), htwo]

theorem getLsbD_setBit (b : Byte) (k k' : Nat) (bit : Bool) :
    (setBit b k bit).getLsbD (7 - k' % 8) = (b.getLsbD (7 - k' % 8) || (bit && decide (k' % 8 = k % 8))) := by
  have hweight : 7 - k % 8 = 7 - k' % 8 ↔ k' % 8 = k % 8 := by omega
  have hbyte : 7 - k % 8 < 8 := by omega
  cases bit <;> simp [setBit_eq, hweight, hbyte]

theorem memRead_pixelNext (a : Nat) (p : Rgb Nat) (s : State) :
    memRead a (pixelNext p s) =
      if a = curIndex s / 8 then setBit (memRead a s) (curIndex s) (bitOfPixel p s) else memRead a s := by
  rw [memRead, pixelNext_buf, readByte_writeByte]
  split_ifs with ha
  · rw [ha]
  · rfl

/-- PIXEL ORs its bit into the bit of the position's index and leaves every other bit of BUF. -/
theorem bitOf_pixelNext (k : Nat) (p : Rgb Nat) (s : State) :
    bitOf k (pixelNext p s) = (bitOf k s || (bitOfPixel p s && decide (k = curIndex s))) := by
  rw [bitOf, memRead_pixelNext]
  split_ifs with hbyte
  · have hindex : k % 8 = curIndex s % 8 ↔ k = curIndex s := by omega
    rw [getLsbD_setBit, bitOf]
    simp only [hindex]
  · have hindex : k ≠ curIndex s := fun h => hbyte (by rw [h])
    simp [bitOf, hindex]

/-! ### PIXEL in the rule's terms -/

theorem colourBit_nearest (v : Rgb Int) : colourBit (nearest v) = decide (v.r + v.g + v.b ≤ 98302) := by
  rw [nearest_eq]
  split_ifs with h <;> simp [h, colourBit]

theorem bitOfPixel_eq (p : Rgb Nat) (s : State) :
    let e := rowAt s.errCur s.x.toNat
    let v := fun (i : Nat) (c : Int) => max 0 (min 65535 ((i : Int) + c.tdiv 16))
    bitOfPixel p s =
      if s.bypass = true then decide (p.r + p.g + p.b = 0) else decide (v p.r e.r + v p.g e.g + v p.b e.b ≤ 98302) := by
  intro e v
  rw [bitOfPixel, colourBit_nearest, adjusted_eq]
  rfl

theorem curIndex_eq (s : State) :
    curIndex s = if s.trav = .columnMajor then s.x.toNat * s.cfgH.toNat + s.y.toNat
      else s.y.toNat * s.cfgW.toNat + s.x.toNat := by
  cases htrav : s.trav <;> simp [curIndex, bitIndex, htrav]

theorem curIndex_lt {s : State} (hinv : s.Inv) (hrun : s.mode = .run) : curIndex s < s.cfgW.toNat * s.cfgH.toNat := by
  obtain ⟨hx, hy⟩ := hinv.run_position hrun
  exact bitIndex_lt hx hy s.trav

@[simp] theorem advance_inbox (s : State) : (advance s).inbox = s.inbox := by
  rcases advance_cases s with ⟨_, h⟩ | ⟨_, h⟩ <;> simp [h]
@[simp] theorem advance_responses (s : State) : (advance s).responses = s.responses := by
  rcases advance_cases s with ⟨_, h⟩ | ⟨_, h⟩ <;> simp [h]
@[simp] theorem pixelNext_inbox (p : Rgb Nat) (s : State) : (pixelNext p s).inbox = s.inbox := by
  simp [pixelNext, storePixel]
@[simp] theorem pixelNext_responses (p : Rgb Nat) (s : State) : (pixelNext p s).responses = s.responses := by
  simp [pixelNext, storePixel]

/-- Settles O19: the byte that `pixelNext` writes, its index and its bit written out. -/
theorem pixelPacksItsBit : Obligations.PixelPacksItsBit := by
  intro s r g b hinv hrun e v bit k
  have hk : curIndex s = k := curIndex_eq s
  have hbit : bitOfPixel ⟨r, g, b⟩ s = bit := bitOfPixel_eq ⟨r, g, b⟩ s
  have hlt := curIndex_lt hinv hrun
  obtain ⟨⟨_, hw, _⟩, _, hh, _⟩ := hinv.run_ranges hrun
  have hsize : s.cfgW.toNat * s.cfgH.toNat ≤ s.params.wMax * s.params.hMax := Nat.mul_le_mul hw hh
  refine ⟨by omega, Nat.div_le_div_right (Nat.add_le_add_right hsize 7), pixelNext ⟨r, g, b⟩ s,
    execPixel_run hinv hrun r g b, fun a => ?_, by simp⟩
  rw [memRead_pixelNext, setBit_eq_ofNat, hk, hbit]

end Sys2Proof.Machine

/-! A whole frame (42_pack.md R155, R156): the state after START and any pixels of it, and what keeps BUF once it is
complete. -/

namespace Sys2Proof.Machine

/-! ### The canvas, one pixel longer -/

theorem canvasErrors_append (w : Nat) (qs : List (Rgb Int)) (ps : List (Rgb Nat)) (p : Rgb Nat) :
    canvasErrors w qs (ps ++ [p]) = canvasErrors w qs ps ++
      [quantError (canvasValue w (canvasErrors w qs ps) p) (nearest (canvasValue w (canvasErrors w qs ps) p))] := by
  induction ps generalizing qs with
  | nil => rfl
  | cons q ps ih => exact ih _

theorem canvasBits_append (w : Nat) (qs : List (Rgb Int)) (ps : List (Rgb Nat)) (p : Rgb Nat) :
    canvasBits w qs (ps ++ [p]) =
      canvasBits w qs ps ++ [colourBit (nearest (canvasValue w (canvasErrors w qs ps) p))] := by
  induction ps generalizing qs with
  | nil => rfl
  | cons q ps ih => exact congrArg (List.cons _) (ih _)

theorem canvasBits_length (w : Nat) (qs : List (Rgb Int)) (ps : List (Rgb Nat)) :
    (canvasBits w qs ps).length = ps.length := by
  induction ps generalizing qs with
  | nil => rfl
  | cons p ps ih => exact congrArg (· + 1) (ih _)

theorem frameBits_length (bypass : Bool) (w : Nat) (ps : List (Rgb Nat)) :
    (frameBits bypass w ps).length = ps.length := by
  cases bypass
  · exact canvasBits_length ..
  · exact List.length_map ..

theorem frameBits_nil (bypass : Bool) (w : Nat) : frameBits bypass w [] = [] :=
  List.length_eq_zero_iff.mp (frameBits_length ..)

/-! ### BUF holds the bits so far -/

/-- BUF holds `bits` in traversal order: bit `idx(x, y)` is the one that raster order numbers `y*W + x`, 0 where there
is none yet, and every bit beyond the frame is 0 (42_pack.md R155). -/
structure State.HoldsBits (bits : List Bool) (s : State) : Prop where
  inside : ∀ x y, x < s.cfgW.toNat → y < s.cfgH.toNat →
    bitOf (bitIndex s.trav s.cfgW.toNat s.cfgH.toNat x y) s = bits.getD (y * s.cfgW.toNat + x) false
  beyond : ∀ k ≥ s.cfgW.toNat * s.cfgH.toNat, bitOf k s = false

theorem bitOf_beginFrame (k : Nat) (s : State) : bitOf k (beginFrame s) = false := by
  rw [bitOf, memRead_beginFrame]
  exact BitVec.getLsbD_zero

theorem beginFrame_holdsBits (s : State) : (beginFrame s).HoldsBits [] where
  inside _ _ _ _ := bitOf_beginFrame _ s
  beyond k _ := bitOf_beginFrame k s

/-- A list one element longer reads the default in its place before, and that element after. -/
theorem getD_append_singleton (bits : List Bool) (bit : Bool) (n : Nat) :
    (bits ++ [bit]).getD n false = (bits.getD n false || (bit && decide (n = bits.length))) := by
  rcases lt_trichotomy n bits.length with hn | rfl | hn
  · rw [List.getD_append _ _ _ _ hn]
    simp [hn.ne]
  · simp
  · rw [List.getD_eq_default _ _ (by simpa using hn), List.getD_eq_default _ _ hn.le]
    simp [hn.ne']

/-- PIXEL in RUN puts its bit after those that BUF holds: raster order and the traversal single out the same pixel. -/
theorem pixelNext_holdsBits {bits : List Bool} {s : State} (hbits : s.HoldsBits bits) (hinv : s.Inv)
    (hrun : s.mode = .run) (hcount : s.pixcount.toNat = bits.length) (p : Rgb Nat) :
    (pixelNext p s).HoldsBits (bits ++ [bitOfPixel p s]) := by
  obtain ⟨hx, hy⟩ := hinv.run_position hrun
  have hraster : bits.length = s.y.toNat * s.cfgW.toNat + s.x.toNat :=
    hcount.symm.trans (hinv.frame_pixcount (.inl hrun))
  constructor
  case inside =>
    simp only [pixelNext_cfgW, pixelNext_cfgH, pixelNext_trav]
    intro x y hx' hy'
    have hsame : bitIndex s.trav s.cfgW.toNat s.cfgH.toNat x y = curIndex s ↔
        y * s.cfgW.toNat + x = bits.length := by
      constructor
      · intro h
        obtain ⟨rfl, rfl⟩ := bitIndex_injective hx hy hx' hy' h
        exact hraster.symm
      · intro h
        obtain ⟨rfl, rfl⟩ := bitIndex_injective (trav := .rowMajor) hx hy hx' hy' (h.trans hraster)
        rfl
    rw [bitOf_pixelNext, getD_append_singleton, hbits.inside x y hx' hy']
    simp only [hsame]
  case beyond =>
    simp only [pixelNext_cfgW, pixelNext_cfgH]
    intro k hk
    have hne : k ≠ curIndex s := ((curIndex_lt hinv hrun).trans_le hk).ne'
    simp [bitOf_pixelNext, hbits.beyond k hk, hne]

/-! ### The state after START and some of the frame's pixels -/

/-- The state after START and the pixels `ps`, none of them beyond the frame. -/
structure State.FrameAfter (ps : List (Rgb Nat)) (s : State) : Prop where
  inv : s.Inv
  line : s.LineBounded
  mode : s.mode = if ps.length = s.cfgW.toNat * s.cfgH.toNat then .done else .run
  count : s.pixcount.toNat = ps.length
  canvas : s.mode = .run → s.bypass = false → s.HoldsCanvas (canvasErrors s.cfgW.toNat [] ps)
  bits : s.HoldsBits (frameBits s.bypass s.cfgW.toNat ps)

theorem beginFrame_frameAfter {s : State} (hinv : s.Inv) (hm : s.mode ≠ .error) (hw : s.cfgW ≠ 0) (hh : s.cfgH ≠ 0) :
    (beginFrame s).FrameAfter [] := by
  have hbegin := beginFrame_inv hinv hm hw hh
  have hsize : 0 < s.cfgW.toNat * s.cfgH.toNat := pixcount_lt hbegin rfl
  exact ⟨hbegin, beginFrame_lineBounded s, (if_neg hsize.ne).symm, rfl, fun _ _ => beginFrame_holdsCanvas s,
    (frameBits_nil ..).symm ▸ beginFrame_holdsBits s⟩

section
variable {ps : List (Rgb Nat)} {s : State} (h : s.FrameAfter ps)
  (hmore : ps.length < s.cfgW.toNat * s.cfgH.toNat) (p : Rgb Nat)
include h hmore

theorem State.FrameAfter.run : s.mode = .run := h.mode.trans (if_neg hmore.ne)

/-- With dithering on, the value of the next pixel is the one that the canvas gives it. -/
theorem State.FrameAfter.adjusted_eq (hdither : s.bypass = false) :
    adjusted p (rowAt s.errCur s.x.toNat) = canvasValue s.cfgW.toNat (canvasErrors s.cfgW.toNat [] ps) p := by
  have hrun := h.run hmore
  rw [(h.canvas hrun hdither).rowAt_x h.inv hrun, canvasValue]

theorem State.FrameAfter.canvasErrors_append (hdither : s.bypass = false) :
    canvasErrors s.cfgW.toNat [] (ps ++ [p]) = canvasErrors s.cfgW.toNat [] ps ++ [pixelError p s] := by
  simp [Machine.canvasErrors_append, pixelError, hdither, h.adjusted_eq hmore p hdither]

theorem State.FrameAfter.frameBits_append :
    frameBits s.bypass s.cfgW.toNat (ps ++ [p]) = frameBits s.bypass s.cfgW.toNat ps ++ [bitOfPixel p s] := by
  cases hb : s.bypass with
  | true => simp [frameBits, bitOfPixel, hb]
  | false => simp [frameBits, bitOfPixel, hb, canvasBits_append, h.adjusted_eq hmore p hb]

theorem State.FrameAfter.pixelNext : (pixelNext p s).FrameAfter (ps ++ [p]) := by
  have hrun := h.run hmore
  constructor
  case inv => exact pixelNext_inv h.inv hrun p
  case line => exact pixelNext_lineBounded h.inv h.line hrun p
  case mode => rw [pixelNext_mode h.inv hrun, h.count, pixelNext_cfgW, pixelNext_cfgH, List.length_append]; rfl
  case count => rw [pixelNext_pixcount h.inv hrun, h.count, List.length_append]; rfl
  case canvas =>
    intro hnext hdither
    rw [pixelNext_bypass] at hdither
    rw [pixelNext_cfgW, h.canvasErrors_append hmore p hdither]
    exact pixelNext_holdsCanvas (h.canvas hrun hdither) h.inv h.line hrun p hnext
  case bits =>
    rw [pixelNext_bypass, pixelNext_cfgW, h.frameBits_append hmore p]
    exact pixelNext_holdsBits h.bits h.inv hrun (h.count.trans (frameBits_length ..).symm) p

end

/-- More pixels of the frame are performed one after the other, under the frame's configuration. -/
theorem execAll_pixels_frameAfter (more : List (Rgb Nat)) {ps : List (Rgb Nat)} {s : State} (h : s.FrameAfter ps)
    (hlen : ps.length + more.length ≤ s.cfgW.toNat * s.cfgH.toNat) :
    ∃ t, execAll (pixels more) s = .next t ∧ t.configuration = s.configuration ∧ t.FrameAfter (ps ++ more) := by
  induction more generalizing ps s with
  | nil => exact ⟨s, rfl, rfl, (List.append_nil ps).symm ▸ h⟩
  | cons p more ih =>
    rw [List.length_cons] at hlen
    have hmore : ps.length < s.cfgW.toNat * s.cfgH.toNat := by omega
    obtain ⟨t, ht, hcfg, hframe⟩ := ih (h.pixelNext hmore p) (by
      rw [List.length_append, List.length_singleton, pixelNext_cfgW, pixelNext_cfgH]
      omega)
    have hfirst : execPixel p.r p.g p.b s = .next (Machine.pixelNext p s) := execPixel_run h.inv (h.run hmore) ..
    refine ⟨t, (execAll_cons_next (i := .pixel p.r p.g p.b) hfirst _).trans ht, ?_, ?_⟩
    · rw [hcfg]
      simp [State.configuration]
    · rwa [List.append_assoc] at hframe

/-- START and pixels of a frame, from a configured state in IDLE or DONE. -/
theorem execAll_start_pixels {s : State} {ps : List (Rgb Nat)} (hinv : s.Inv) (hm : s.mode = .idle ∨ s.mode = .done)
    (hw : s.cfgW ≠ 0) (hh : s.cfgH ≠ 0) (hlen : ps.length ≤ s.cfgW.toNat * s.cfgH.toNat) :
    ∃ t, execAll (.start :: pixels ps) s = .next t ∧ t.configuration = s.configuration ∧ t.FrameAfter ps := by
  rw [execAll_start hm hw hh]
  exact execAll_pixels_frameAfter ps (beginFrame_frameAfter hinv (not_error_not_run hm).1 hw hh) (by simpa using hlen)

/-- Settles O48: STATE and PIXCOUNT are those of `State.FrameAfter`, the position at DONE the invariant's. -/
theorem frameCompletesAtLastPixel : Obligations.FrameCompletesAtLastPixel := by
  intro s ps hinv hm hw hh
  refine ⟨fun hlen => ?_, fun hlen => ?_⟩
  · obtain ⟨t, ht, hcfg, hframe⟩ := execAll_start_pixels hinv hm hw hh hlen.le
    obtain ⟨hcfgW, hcfgH, _⟩ := (configuration_eq_iff s t).mp hcfg
    have hdone : t.mode = .done := by rw [hframe.mode, hcfgW, hcfgH, if_pos hlen]
    obtain ⟨hx, hy, _⟩ := hframe.inv.done_position hdone
    exact ⟨t, ht, hdone, hx, hy.trans hcfgH, hframe.count.trans hlen⟩
  · obtain ⟨t, ht, hcfg, hframe⟩ := execAll_start_pixels hinv hm hw hh hlen.le
    obtain ⟨hcfgW, hcfgH, _⟩ := (configuration_eq_iff s t).mp hcfg
    exact ⟨t, ht, hframe.run (by rwa [hcfgW, hcfgH]), hframe.count⟩

/-! ### BUF outside RUN -/

/-- Outside RUN only START changes BUF or leads to RUN. -/
theorem exec_keeps_buf_outside_run {i : Instr} {s t : State} (hrun : s.mode ≠ .run) (hi : i ≠ .start)
    (h : exec i s = .next t) : t.buf = s.buf ∧ t.mode ≠ .run := by
  cases i with
  | nop => rw [execNop_cases h]; exact ⟨rfl, hrun⟩
  | config w h' trav bypass =>
    rcases execConfig_cases h with ⟨_, rfl⟩ | ⟨hm, _⟩ | ⟨_, ⟨_, rfl⟩ | ⟨_, rfl⟩⟩
    · exact ⟨rfl, hrun⟩
    · exact absurd hm hrun
    · exact ⟨rfl, by simp⟩
    · exact ⟨rfl, by simp⟩
  | profile sel =>
    rcases execProfile_cases h with ⟨_, rfl⟩ | ⟨hm, _⟩ | ⟨_, ⟨_, rfl⟩ | ⟨_, _, _, ⟨_, rfl⟩ | ⟨_, rfl⟩⟩⟩
    · exact ⟨rfl, hrun⟩
    · exact absurd hm hrun
    · exact ⟨rfl, by simp⟩
    · exact ⟨rfl, by simp⟩
    · exact ⟨rfl, by simp⟩
  | start => exact absurd rfl hi
  | pixel r g b =>
    rcases execPixel_cases h with ⟨_, rfl⟩ | ⟨_, rfl⟩ | ⟨hm, _⟩
    · exact ⟨rfl, hrun⟩
    · exact ⟨rfl, by simp⟩
    · exact absurd hm hrun
  | clear =>
    rcases execClear_cases h with ⟨_, rfl⟩ | ⟨_, rfl⟩
    · exact ⟨rfl, by simp⟩
    · exact ⟨rfl, hrun⟩
  | readReg n => cases h; exact ⟨rfl, hrun⟩
  | readBuf a => cases h; exact ⟨rfl, hrun⟩

/-- A sequence that completes does so by its first instruction and then the rest. -/
theorem execAll_cons_cases {i : Instr} {rest : List Instr} {s u : State} (h : execAll (i :: rest) s = .next u) :
    ∃ t, exec i s = .next t ∧ execAll rest t = .next u := by
  unfold execAll at h
  split at h
  · exact ⟨_, ‹_›, h⟩
  · cases h
  · cases h

theorem execAll_keeps_buf_outside_run (l : List Instr) {s u : State} (hrun : s.mode ≠ .run) (hl : ∀ i ∈ l, i ≠ .start)
    (h : execAll l s = .next u) : u.buf = s.buf := by
  induction l generalizing s with
  | nil => cases h; rfl
  | cons i rest ih =>
    obtain ⟨hi, hrest⟩ := List.forall_mem_cons.mp hl
    obtain ⟨t, ht, hu⟩ := execAll_cons_cases h
    obtain ⟨hbuf, hrun'⟩ := exec_keeps_buf_outside_run hrun hi ht
    exact (ih hrun' hrest hu).trans hbuf

/-- Settles O50: BUF holds the frame's bits as `State.FrameAfter` says, and nothing but START changes it at DONE. -/
theorem frameContentIsTheDitheredCanvas : Obligations.FrameContentIsTheDitheredCanvas := by
  intro s ps hinv hm hw hh hlen
  obtain ⟨t, ht, hcfg, hframe⟩ := execAll_start_pixels hinv hm hw hh hlen.le
  obtain ⟨hcfgW, hcfgH, htrav, hbypass⟩ := (configuration_eq_iff s t).mp hcfg
  have hdone : t.mode = .done := by rw [hframe.mode, hcfgW, hcfgH, if_pos hlen]
  obtain ⟨hinside, hbeyond⟩ := hframe.bits
  rw [hcfgW, hcfgH, htrav, hbypass] at hinside
  rw [hcfgW, hcfgH] at hbeyond
  exact ⟨t, ht, hdone, hinside, hbeyond, fun l u hl hu => execAll_keeps_buf_outside_run l (by simp [hdone]) hl hu⟩

end Sys2Proof.Machine

/-! READ_REG (43_readout.md R170): its request, its one effect, and the layout of each register (10_state.md R33) as a
number. -/

namespace Sys2Proof.Machine

/-! ### The request (30_encoding.md R85) -/

theorem decodeRead_of_lt {r : ReadWord} (h : r.toNat < 2 ^ 15) : decodeRead r = .readReg r.toNat := by
  have space : r.getLsbD 15 = false := by
    rw [getLsbD_eq_decide_div, Nat.div_eq_of_lt h]
    rfl
  have address : fieldOf r 0 15 = r.toNat := by rw [fieldOf_eq, pow_zero, Nat.div_one, Nat.mod_eq_of_lt h]
  rw [decodeRead, space, address]
  rfl

theorem decode_read_ofNat_of_lt {n : Nat} (h : n < 2 ^ 15) :
    decode (.read (BitVec.ofNat 16 n)) = .legal (.readReg n) := by
  have number : (BitVec.ofNat 16 n).toNat = n := ofNat_toNat_of_lt (h.trans (by decide))
  rw [decode, decodeRead_of_lt (by rwa [number]), number]

/-! ### The effect -/

theorem exec_readReg_eq_respond (n : Nat) (s : State) :
    exec (.readReg n) s = .next (respond (regValue n s) s) := rfl

/-! ### The layouts (10_state.md R33) -/

theorem toNat_travBit (trav : Traversal) : (travBit trav).toNat = if trav = .rowMajor then 1 else 0 := by
  cases trav <;> rfl

theorem toNat_regStatus (s : State) : (regStatus s).toNat = (modeBits s.mode).toNat + s.errcode.toNat * 2 ^ 4 := by
  simp only [regStatus, toNat_append_eq_mul_add, BitVec.toNat_ofNat]
  omega

theorem toNat_regConfig (s : State) :
    (regConfig s).toNat = s.cfgW.toNat + s.cfgH.toNat * 2 ^ 16 + (if s.trav = .rowMajor then 2 ^ 28 else 0) +
      (if s.bypass then 2 ^ 29 else 0) := by
  simp only [regConfig, toNat_append_eq_mul_add, BitVec.toNat_ofNat, toNat_travBit, BitVec.toNat_ofBool, Bool.toNat,
    Bool.cond_eq_ite]
  split_ifs <;> omega

theorem toNat_regPos (s : State) : (regPos s).toNat = s.x.toNat + s.y.toNat * 2 ^ 16 := by
  simp only [regPos, toNat_append_eq_mul_add, BitVec.toNat_ofNat]
  omega

theorem toNat_regPixcount (s : State) : (regPixcount s).toNat = s.pixcount.toNat := by
  simp only [regPixcount, toNat_append_eq_mul_add, BitVec.toNat_ofNat]
  omega

/-- Two 9-bit dimensions make fewer than `2 ^ 18` pixels, so the register loses nothing of BUFLEN. -/
theorem toNat_regBuflen (s : State) : (regBuflen s).toNat = (s.cfgW.toNat * s.cfgH.toNat + 7) / 8 := by
  have pixels : s.cfgW.toNat * s.cfgH.toNat < 2 ^ 9 * 2 ^ 9 := Nat.mul_lt_mul'' s.cfgW.isLt s.cfgH.isLt
  rw [regBuflen, bufLen_eq]
  exact ofNat_toNat_of_lt (by omega)

/-- Legal parameters fit their 9-bit fields (00_scope.md R6). -/
theorem toNat_regParams {s : State} (hlegal : s.params.legal) :
    (regParams s).toNat = s.params.wMax + s.params.hMax * 2 ^ 16 := by
  obtain ⟨_, hw, _, hh⟩ := hlegal
  have wide : (BitVec.ofNat 9 s.params.wMax).toNat = s.params.wMax := ofNat_toNat_of_lt (by omega)
  have high : (BitVec.ofNat 9 s.params.hMax).toNat = s.params.hMax := ofNat_toNat_of_lt (by omega)
  simp only [regParams, toNat_append_eq_mul_add, wide, high, BitVec.toNat_ofNat]
  omega

theorem regValue_reserved {n : Nat} (h : 6 ≤ n) (s : State) : regValue n s = 0 := by
  obtain ⟨k, rfl⟩ := Nat.exists_eq_add_of_le' h
  rfl

/-! ### The registers after PROFILE (40_control.md R104) -/

/-- A PROFILE that ends in IDLE from a state other than ERROR was accepted: every error ends in ERROR. -/
theorem exec_profile_idle {sel : Nat} {s t : State} (he : exec (.profile sel) s = .next t) (hidle : t.mode = .idle)
    (hs : s.mode ≠ .error) : ∃ w h, profileDims sel = some (w, h) ∧ t = applyConfig w h .columnMajor false s := by
  rcases execProfile_cases he with ⟨herr, _⟩ | ⟨_, rfl⟩ | ⟨_, ⟨_, rfl⟩ | ⟨w, h, hdims, ⟨_, rfl⟩ | ⟨_, rfl⟩⟩⟩
  · exact absurd herr hs
  · cases hidle
  · cases hidle
  · cases hidle
  · exact ⟨w, h, hdims, rfl⟩

theorem regConfig_applyConfig (w h : Nat) (trav : Traversal) (bypass : Bool) (s : State) :
    regConfig (applyConfig w h trav bypass s) =
      0#2 ++ BitVec.ofBool bypass ++ travBit trav ++ 0#3 ++ BitVec.ofNat 9 h ++ 0#7 ++ BitVec.ofNat 9 w := rfl

/-- Settles O25: the request, the response as the one change, each register's layout, and R170's example by the
configuration that PROFILE 0 leaves. -/
theorem readRegReturnsRegister : Obligations.ReadRegReturnsRegister := by
  refine ⟨fun _ => decode_read_ofNat_of_lt, fun s n => exec_readReg_eq_respond n s, fun s => ?_, by decide,
    by decide, ?_⟩
  · exact ⟨toNat_regStatus s, ⟨rfl, rfl, rfl, rfl⟩, toNat_regConfig s, toNat_regPos s, toNat_regPixcount s,
      toNat_regBuflen s, toNat_regParams, fun _ hn => regValue_reserved hn s⟩
  · intro s t he hidle hs
    obtain ⟨w, h, hdims, rfl⟩ := exec_profile_idle he hidle hs
    cases hdims
    exact ⟨(regConfig_applyConfig 120 128 .columnMajor false s).trans (by decide),
      regValue_buflen_applyConfig (by decide) (by decide) .columnMajor false s⟩

end Sys2Proof.Machine

/-! ERROR ignores every command word but the legal CLEAR, and reads are performed in every STATE (60_exceptions.md
R186). -/

namespace Sys2Proof.Machine

/-! ### The step on a request -/

/-- A legal request is taken from the queue and its instruction performed. -/
theorem step_of_legal {s : State} {q : Request} {rest : List HostOp} {i : Instr} (hin : s.inbox = .request q :: rest)
    (hq : decode q = .legal i) : step s = exec i { s with inbox := rest } := by
  simp [step, nextOp, hin, hq]

/-- An illegal word is taken from the queue and treated as its error says. -/
theorem step_of_illegal {s : State} {q : Request} {rest : List HostOp} {c : ErrCode}
    (hin : s.inbox = .request q :: rest) (hq : decode q = .illegal c) :
    step s = illegalWord c { s with inbox := rest } := by
  simp [step, nextOp, hin, hq]

/-! ### Reads, in every STATE -/

theorem decodeRead_of_le {r : ReadWord} (h : 2 ^ 15 ≤ r.toNat) : decodeRead r = .readBuf (r.toNat - 2 ^ 15) := by
  have bound : r.toNat < 2 ^ 16 := r.isLt
  have space : r.getLsbD 15 = true := by
    rw [getLsbD_eq_decide_div, decide_eq_true_eq]
    omega
  have address : fieldOf r 0 15 = r.toNat - 2 ^ 15 := by
    rw [fieldOf_eq]
    omega
  rw [decodeRead, space, address]
  rfl

theorem exec_readBuf_eq_respond (a : Nat) (s : State) :
    exec (.readBuf a) s = .next (respond (bufValue a s) s) := rfl

/-- The value that a read request is answered with (30_encoding.md R85, 43_readout.md R170, R172). -/
def readValue (r : ReadWord) (s : State) : RegValue :=
  if r.toNat < 2 ^ 15 then regValue r.toNat s else bufValue (r.toNat - 2 ^ 15) s

theorem exec_decodeRead (r : ReadWord) (s : State) : exec (decodeRead r) s = .next (respond (readValue r s) s) := by
  by_cases h : r.toNat < 2 ^ 15
  · rw [decodeRead_of_lt h, exec_readReg_eq_respond, readValue, if_pos h]
  · rw [decodeRead_of_le (Nat.not_lt.mp h), exec_readBuf_eq_respond, readValue, if_neg h]

/-- The value read does not depend on the requests still in the queue. -/
theorem readValue_inbox (r : ReadWord) (s : State) (ops : List HostOp) :
    readValue r { s with inbox := ops } = readValue r s := rfl

/-- A read request changes nothing but the queue and the responses. -/
theorem step_read {s : State} {r : ReadWord} {rest : List HostOp} (hin : s.inbox = .request (.read r) :: rest) :
    step s = .next { s with inbox := rest, responses := s.responses ++ [readValue r s] } := by
  rw [step_of_legal hin rfl, exec_decodeRead, readValue_inbox]
  rfl

/-- An instruction of the read port gives one response, in every STATE. -/
theorem exec_of_encode_read {i : Instr} {r : ReadWord} (h : encode i = .read r) (s : State) :
    ∃ v, exec i s = .next (respond v s) :=
  match i, h with
  | .readReg n, _ => ⟨_, exec_readReg_eq_respond n s⟩
  | .readBuf a, _ => ⟨_, exec_readBuf_eq_respond a s⟩

/-! ### Commands in ERROR -/

theorem illegalWord_error {s : State} (herr : s.mode = .error) (c : ErrCode) : illegalWord c s = .next s :=
  unlessError_error herr _

/-- In ERROR an instruction of the command port other than CLEAR has no effect. -/
theorem exec_error_of_encode_command {i : Instr} {w : CmdWord} {s : State} (herr : s.mode = .error)
    (hi : i ≠ .clear) (h : encode i = .command w) : exec i s = .next s := by
  cases i with
  | nop => exact execNop_eq s
  | config w h trav bypass => exact unlessError_error herr _
  | profile sel => exact unlessError_error herr _
  | start => exact unlessError_error herr _
  | pixel r g b => exact unlessError_error herr _
  | clear => exact absurd rfl hi
  | readReg n => cases h
  | readBuf a => cases h

/-- CLEAR has one legal word (40_control.md R108). -/
theorem decode_eq_clear {w : CmdWord} (h : decode (.command w) = .legal .clear) : w = 0x5000000000000000#64 :=
  decode_command_injective h (by decide)

/-- In ERROR every word but CLEAR's, legal or not, is only taken from the queue. -/
theorem step_command_error {s : State} {w : CmdWord} {rest : List HostOp} (herr : s.mode = .error)
    (hin : s.inbox = .request (.command w) :: rest) (hw : w ≠ 0x5000000000000000#64) :
    step s = .next { s with inbox := rest } := by
  cases hd : decode (.command w) with
  | illegal c =>
    rw [step_of_illegal hin hd]
    exact illegalWord_error (s := { s with inbox := rest }) herr c
  | legal i =>
    have notClear : i ≠ .clear := by
      rintro rfl
      exact hw (decode_eq_clear hd)
    rw [step_of_legal hin hd]
    exact exec_error_of_encode_command (s := { s with inbox := rest }) herr notClear (encode_of_decode_command hd)

/-! ### Sequences in ERROR -/

/-- In ERROR an instruction other than CLEAR changes nothing but the responses. -/
theorem exec_error_appends {i : Instr} {s : State} (herr : s.mode = .error) (hi : i ≠ .clear) :
    ∃ rs, exec i s = .next { s with responses := s.responses ++ rs } := by
  cases h : encode i with
  | command w =>
    refine ⟨[], ?_⟩
    rw [List.append_nil]
    exact exec_error_of_encode_command herr hi h
  | read r =>
    obtain ⟨v, hv⟩ := exec_of_encode_read h s
    exact ⟨[v], hv⟩

theorem execAll_error_appends (l : List Instr) {s : State} (herr : s.mode = .error) (hl : ∀ i ∈ l, i ≠ .clear) :
    ∃ rs, execAll l s = .next { s with responses := s.responses ++ rs } := by
  induction l generalizing s with
  | nil =>
    refine ⟨[], ?_⟩
    rw [List.append_nil]
    rfl
  | cons i rest ih =>
    obtain ⟨hi, hrest⟩ := List.forall_mem_cons.mp hl
    obtain ⟨rs, hrs⟩ := exec_error_appends herr hi
    obtain ⟨more, hmore⟩ := ih (s := { s with responses := s.responses ++ rs }) herr hrest
    exact ⟨rs ++ more, by rw [execAll_cons_next hrs, hmore, List.append_assoc]⟩

/-- Settles O10: the step on a word by the decoder's two answers, the step on a read by the space it names, and
sequences by induction. -/
theorem errorStateIgnoresAllButClear : Obligations.ErrorStateIgnoresAllButClear :=
  ⟨fun _ _ _ => step_command_error, fun _ _ _ hin => ⟨_, step_read hin, rfl⟩,
    fun l _ => execAll_error_appends l⟩

end Sys2Proof.Machine

/-! Encoder and decoder as inverses of each other on both ports (30_encoding.md R72 to R76, R83, R85), and the dispatch
of a command word (60_exceptions.md R184). -/

namespace Sys2Proof.Machine

/-! ### The decoder reads an encoding back -/

theorem wellFormed_pixel {r g b : Nat} :
    (Instr.pixel r g b).wellFormed = true ↔ r < 2 ^ 16 ∧ g < 2 ^ 16 ∧ b < 2 ^ 16 := by
  simp [Instr.wellFormed, and_assoc]

theorem wellFormed_readReg {n : Nat} : (Instr.readReg n).wellFormed = true ↔ n < 2 ^ 15 := by
  simp [Instr.wellFormed]

theorem wellFormed_readBuf {a : Nat} : (Instr.readBuf a).wellFormed = true ↔ a < 2 ^ 15 := by
  simp [Instr.wellFormed]

theorem toNat_formatP {r g b : Nat} (hr : r < 2 ^ 16) (hg : g < 2 ^ 16) (hb : b < 2 ^ 16) :
    (formatP r g b).toNat = 0x4 * 2 ^ 60 + b * 2 ^ 32 + g * 2 ^ 16 + r := by
  simp only [formatP, toNat_append_eq_mul_add, BitVec.toNat_ofNat, Nat.mod_eq_of_lt hr, Nat.mod_eq_of_lt hg,
    Nat.mod_eq_of_lt hb]
  omega

theorem toNat_formatR (sp : BitVec 1) {a : Nat} (ha : a < 2 ^ 15) :
    (formatR sp a).toNat = sp.toNat * 2 ^ 15 + a := by
  rw [formatR, toNat_append_eq_mul_add, ofNat_toNat_of_lt ha]

theorem decode_formatP {r g b : Nat} (hr : r < 2 ^ 16) (hg : g < 2 ^ 16) (hb : b < 2 ^ 16) :
    decode (.command (formatP r g b)) = .legal (.pixel r g b) := by
  have row := Laws.TableRow.pixel r g b (wellFormed_pixel.mpr ⟨hr, hg, hb⟩)
  have fields : commandOf 4 (formatP r g b) = .pixel r g b := by
    rw [commandOf_eq, toNat_formatP hr hg hb]
    exact congr (congrArg₂ Instr.pixel (by omega) (by omega)) (by omega)
  rw [decode_of_row_bits (opc := 4) (by decide) row, fields]

theorem decode_formatR_reg {n : Nat} (hn : n < 2 ^ 15) : decode (.read (formatR 0#1 n)) = .legal (.readReg n) := by
  have number : (formatR 0#1 n).toNat = n := (toNat_formatR 0#1 hn).trans (by simp)
  rw [decode, decodeRead_of_lt (by rwa [number]), number]

/-- A request whose number has bit 15 above the address `a` is READ_BUF of it (30_encoding.md R85). -/
theorem decode_read_of_toNat_buf {r : ReadWord} {a : Nat} (number : r.toNat = 2 ^ 15 + a) :
    decode (.read r) = .legal (.readBuf a) := by
  rw [decode, decodeRead_of_le (by omega), number, Nat.add_sub_cancel_left]

theorem decode_formatR_buf {a : Nat} (ha : a < 2 ^ 15) : decode (.read (formatR 1#1 a)) = .legal (.readBuf a) :=
  decode_read_of_toNat_buf ((toNat_formatR 1#1 ha).trans (by simp))

/-- Settles O3: one format for each constructor, its word as a number and the fields read from that number. -/
theorem decodeOfEncodeIsIdentity : Obligations.DecodeOfEncodeIsIdentity := by
  intro i hwf
  cases i with
  | nop => decide
  | config w h trav bypass =>
    obtain ⟨hw, hh⟩ := wellFormed_config.mp hwf
    exact decode_formatC hw hh trav bypass
  | profile sel => exact decode_formatS (wellFormed_profile.mp hwf)
  | start => decide
  | pixel r g b =>
    obtain ⟨hr, hg, hb⟩ := wellFormed_pixel.mp hwf
    exact decode_formatP hr hg hb
  | clear => decide
  | readReg n => exact decode_formatR_reg (wellFormed_readReg.mp hwf)
  | readBuf a => exact decode_formatR_buf (wellFormed_readBuf.mp hwf)

/-! ### A legal request is the encoding of a well-formed instruction -/

theorem fieldOf_lt {n : Nat} (w : BitVec n) (lo len : Nat) : fieldOf w lo len < 2 ^ len :=
  (w.extractLsb' lo len).isLt

/-- An operand read from a field fits that field. -/
theorem wellFormed_commandOf (opc : Nat) (w : CmdWord) : (commandOf opc w).wellFormed = true := by
  unfold commandOf
  split
  · rfl
  · exact wellFormed_config.mpr ⟨fieldOf_lt .., fieldOf_lt ..⟩
  · exact wellFormed_profile.mpr (fieldOf_lt ..)
  · rfl
  · exact wellFormed_pixel.mpr ⟨fieldOf_lt .., fieldOf_lt .., fieldOf_lt ..⟩
  · rfl

/-- Settles O2: the two halves of the 16-bit range, by the bit that selects the space. -/
theorem everyReadRequestIsLegal : Obligations.EveryReadRequestIsLegal :=
  fun _ => ⟨fun h => congrArg Decoded.legal (decodeRead_of_lt h), fun h => congrArg Decoded.legal (decodeRead_of_le h)⟩

/-- A read request has no bit beside its space and its address. -/
theorem decodeRead_roundtrip (r : ReadWord) :
    (decodeRead r).wellFormed = true ∧ encode (decodeRead r) = .read r := by
  have bound : r.toNat < 2 ^ 16 := r.isLt
  by_cases h : r.toNat < 2 ^ 15
  · rw [decodeRead_of_lt h]
    refine ⟨wellFormed_readReg.mpr h, congrArg Request.read (BitVec.eq_of_toNat_eq ?_)⟩
    rw [toNat_formatR _ h]
    simp
  · have address : r.toNat - 2 ^ 15 < 2 ^ 15 := by omega
    rw [decodeRead_of_le (Nat.not_lt.mp h)]
    refine ⟨wellFormed_readBuf.mpr address, congrArg Request.read (BitVec.eq_of_toNat_eq ?_)⟩
    rw [toNat_formatR _ address, BitVec.toNat_ofNat]
    omega

/-- Settles O4: a command word by its opcode's format, a read request by the space it selects. -/
theorem legalWordsAreEncodings : Obligations.LegalWordsAreEncodings := by
  intro q i h
  cases q with
  | command w =>
    obtain ⟨_, _, hi⟩ := decode_command_eq_legal h
    exact ⟨hi ▸ wellFormed_commandOf _ w, encode_of_decode_command h⟩
  | read r =>
    obtain rfl : decodeRead r = i := Decoded.legal.inj h
    exact decodeRead_roundtrip r

/-- Settles O5: each word evaluated. -/
theorem writtenOutWordsDecode : Obligations.WrittenOutWordsDecode := by
  unfold Obligations.WrittenOutWordsDecode
  decide

/-! ### The dispatch of a command word (60_exceptions.md R184) -/

theorem illegalWord_else {s : State} (h : s.mode ≠ .error) (c : ErrCode) :
    illegalWord c s = .next (raiseError c s) := unlessError_else h _

/-- Settles O9: in ERROR the CLEAR word against every other, elsewhere the decoder's three answers. -/
theorem dispatchChecksInOrder : Obligations.DispatchChecksInOrder := by
  intro s w rest hin t
  rw [← opcode_eq_div]
  refine ⟨fun herr hw => ?_, fun herr hw => step_command_error herr hin hw, fun herr hopc => ?_,
    fun herr hopc hrsv => ?_, fun _ hopc hrsv => ?_⟩
  · have legal : decode (.command w) = .legal .clear := by
      rw [hw]
      decide
    exact (step_of_legal hin legal).trans (execClear_error (s := t) herr)
  · exact (step_of_illegal hin (decode_of_opcode_reserved hopc)).trans (illegalWord_else (s := t) herr _)
  · exact (step_of_illegal hin (decode_of_bit_reserved hopc hrsv)).trans (illegalWord_else (s := t) herr _)
  · have legal := decode_of_no_bit_reserved hopc hrsv
    exact ⟨_, legal, step_of_legal hin legal⟩

/-- Settles O7: the step on a request with a legal word. -/
theorem stepRunsDecodedInstruction : Obligations.StepRunsDecodedInstruction :=
  fun _ _ _ _ => step_of_legal

/-- Settles O8: the queue has no head. -/
theorem stepWithoutOperationWaits : Obligations.StepWithoutOperationWaits := by
  intro s hin
  simp [step, nextOp, hin]

end Sys2Proof.Machine

/-! PIXEL in RUN: the position in raster order (41_dither.md R121, R129), the one bit it decides (42_pack.md R153), the
line buffer in bypass (41_dither.md R131); and PIXEL outside RUN (R120). -/

namespace Sys2Proof.Machine

/-! ### The position in raster order -/

/-- In RUN the next pixel is the one that raster order numbers PIXCOUNT (41_dither.md R121). -/
theorem State.Inv.raster_position {s : State} (hinv : s.Inv) (hrun : s.mode = .run) :
    s.pixcount.toNat % s.cfgW.toNat = s.x.toNat ∧ s.pixcount.toNat / s.cfgW.toNat = s.y.toNat := by
  obtain ⟨hx, _⟩ := hinv.run_position hrun
  obtain ⟨hdiv, hmod⟩ := mul_add_div_mod hx s.y.toNat
  rw [hinv.frame_pixcount (.inl hrun)]
  exact ⟨hmod, hdiv⟩

/-- Settles O23: the position that `pixelNext` leaves, within a row and at its end. -/
theorem pixelAdvancesInRasterOrder : Obligations.PixelAdvancesInRasterOrder := by
  intro s r g b hinv hrun
  obtain ⟨_, hy⟩ := hinv.run_position hrun
  refine ⟨_, execPixel_run hinv hrun r g b, pixelNext_pixcount hinv hrun _, fun hin => ?_, fun hend => ?_⟩
  · rw [← hrun]
    exact pixelNext_position_inRow hin _
  · rw [← hrun]
    exact pixelNext_position_rowEnd hend hy _

/-- Settles O24: PIXCOUNT is the number of pixels supplied, and the position is its raster position. -/
theorem nextPixelIsTheNthOfTheRaster : Obligations.NextPixelIsTheNthOfTheRaster := by
  intro s ps hinv hm hw hh hlen
  obtain ⟨t, ht, hcfg, hframe⟩ := execAll_start_pixels hinv hm hw hh hlen.le
  obtain ⟨hcfgW, hcfgH, _⟩ := (configuration_eq_iff s t).mp hcfg
  have hrun : t.mode = .run := hframe.run (by rwa [hcfgW, hcfgH])
  obtain ⟨hx, hy⟩ := hframe.inv.raster_position hrun
  rw [hframe.count, hcfgW] at hx hy
  exact ⟨t, ht, hrun, hx.symm, hy.symm⟩

/-! ### The bit of the position -/

/-- The bit index of the pixel that raster order numbers `n` (41_dither.md R121, 42_pack.md R150). -/
def rasterIndex (s : State) (n : Nat) : Nat :=
  bitIndex s.trav s.cfgW.toNat s.cfgH.toNat (n % s.cfgW.toNat) (n / s.cfgW.toNat)

theorem curIndex_eq_rasterIndex {s : State} (hinv : s.Inv) (hrun : s.mode = .run) :
    curIndex s = rasterIndex s s.pixcount.toNat := by
  obtain ⟨hx, hy⟩ := hinv.raster_position hrun
  rw [rasterIndex, hx, hy, curIndex]

/-- No two pixels of a frame have one bit index. -/
theorem rasterIndex_injective {s : State} {m n : Nat} (hm : m < s.cfgW.toNat * s.cfgH.toNat)
    (hn : n < s.cfgW.toNat * s.cfgH.toNat) (heq : rasterIndex s m = rasterIndex s n) : m = n := by
  have hw : 0 < s.cfgW.toNat := Nat.pos_of_mul_pos_right (Nat.zero_lt_of_lt hn)
  obtain ⟨hcol, hrow⟩ := bitIndex_injective (Nat.mod_lt n hw) (Nat.div_lt_of_lt_mul hn) (Nat.mod_lt m hw)
    (Nat.div_lt_of_lt_mul hm) heq
  rw [← Nat.div_add_mod m s.cfgW.toNat, hrow, hcol, Nat.div_add_mod]

/-- The bit of the next pixel is still 0 (20_memory.md R52). -/
theorem bitOf_curIndex_eq_false {s : State} (hinv : s.Inv) (hbits : s.OnlySuppliedBits) (hrun : s.mode = .run) :
    bitOf (curIndex s) s = false := by
  by_contra hbit
  obtain ⟨n, hn, hindex⟩ := hbits (.inl hrun) _ (Bool.eq_true_of_not_eq_false hbit)
  have hcount := pixcount_lt hinv hrun
  rw [curIndex_eq_rasterIndex hinv hrun] at hindex
  exact hn.ne' (rasterIndex_injective hcount (hn.trans hcount) hindex)

/-- Settles O20: `bitOf_pixelNext` ORs the pixel's bit into a 0. -/
theorem pixelDecidesExactlyOneBit : Obligations.PixelDecidesExactlyOneBit := by
  intro s r g b hinv hbits hrun k
  have hzero : bitOf k s = false := bitOf_curIndex_eq_false hinv hbits hrun
  refine ⟨hzero, _, bitOfPixel ⟨r, g, b⟩ s, execPixel_run hinv hrun r g b, fun hbypass => if_pos hbypass,
    fun hdither => if_neg (by simp [hdither]), ?_, fun k' hk' => ?_⟩
  · have hk : k = curIndex s := rfl
    rw [bitOf_pixelNext, hzero, decide_eq_true hk, Bool.and_true, Bool.false_or]
  · have hk : k' ≠ curIndex s := hk'
    simp [bitOf_pixelNext, hk]

/-! ### Bypass leaves the line buffer -/

theorem storePixel_rows_of_bypass {s : State} (hbypass : s.bypass = true) (p : Rgb Nat) :
    (storePixel p s).errCur = s.errCur ∧ (storePixel p s).errNxt = s.errNxt := by
  have noError : pixelError p s = Rgb.all 0 := if_pos hbypass
  simp [storePixel, noError, diffuse_zero]

/-- Settles O22: no error is diffused, so the rows are changed by their move alone. -/
theorem bypassPixelLeavesLineBuffer : Obligations.BypassPixelLeavesLineBuffer := by
  intro s r g b hinv hrun hbypass
  obtain ⟨hcur, hnxt⟩ := storePixel_rows_of_bypass hbypass ⟨r, g, b⟩
  refine ⟨_, execPixel_run hinv hrun r g b, fun hin => ?_, fun hend => ?_⟩
  · rw [pixelNext_inRow hin]
    exact ⟨hcur, hnxt⟩
  · rw [pixelNext_rowEnd hend, endFrame_errCur, endFrame_errNxt]
    exact ⟨hnxt, rowAt_zeroRow _⟩

/-! ### Outside RUN, and the classification -/

/-- Settles O18: the two answers of PIXEL outside RUN. -/
theorem pixelOutsideRunIsRefusedByError : Obligations.PixelOutsideRunIsRefusedByError :=
  fun _ r g b => ⟨fun hm => execPixel_notRun hm r g b, fun herr => unlessError_error herr _⟩

/-- Settles O32: the definition's test, and its value at the palette's colours and at two others. -/
theorem classifyAgreesOnPalette : Obligations.ClassifyAgreesOnPalette := by
  refine ⟨fun _ => decide_eq_true_iff, ?_, by decide, by decide, by decide⟩
  rintro p (rfl | rfl) <;> decide

end Sys2Proof.Machine

/-! The read port: READ_BUF's request and its one effect (43_readout.md R172), reads that repeat (20_memory.md R58), and
STATUS in each STATE (R171). -/

namespace Sys2Proof.Machine

theorem decode_read_buf_ofNat {a : Nat} (ha : a < 2 ^ 15) :
    decode (.read (BitVec.ofNat 16 (0x8000 + a))) = .legal (.readBuf a) :=
  decode_read_of_toNat_buf (ofNat_toNat_of_lt (by omega))

theorem toNat_bufValue {a : Nat} {s : State} (ha : a < bufBytes s.params) :
    (bufValue a s).toNat = (memRead a s).toNat := by
  have byte : (memRead a s).toNat < 2 ^ 8 := (memRead a s).isLt
  rw [bufValue, inBuf, if_pos (decide_eq_true ha), BitVec.toNat_setWidth, Nat.mod_eq_of_lt (by omega)]

theorem bufValue_beyond {a : Nat} {s : State} (ha : bufBytes s.params ≤ a) : bufValue a s = 0 := by
  simp [bufValue, inBuf, ha]

/-- Settles O26: the request by its number, the effect as one response, its value by the address. -/
theorem readBufReturnsByte : Obligations.ReadBufReturnsByte :=
  ⟨fun _ => decode_read_buf_ofNat, fun s a =>
    ⟨_, exec_readBuf_eq_respond a s, toNat_bufValue, bufValue_beyond⟩⟩

/-- A value read does not depend on the responses already given. -/
theorem execAll_read_twice {i : Instr} {value : State → RegValue} (hexec : ∀ s, exec i s = .next (respond (value s) s))
    (hvalue : ∀ s v, value (respond v s) = value s) (s : State) :
    execAll [i, i] s = .next { s with responses := s.responses ++ [value s, value s] } := by
  rw [execAll_cons_next (hexec s), execAll_cons_next (hexec _), hvalue]
  simp [execAll, respond]

/-- Settles O27: both reads answer a value of the state that a response leaves as it is. -/
theorem readsRepeat : Obligations.ReadsRepeat := by
  rintro s i (⟨n, rfl⟩ | ⟨a, rfl⟩)
  · exact ⟨_, execAll_read_twice (exec_readReg_eq_respond n) (fun _ _ => rfl) s⟩
  · exact ⟨_, execAll_read_twice (exec_readBuf_eq_respond a) (fun _ _ => rfl) s⟩

/-- Outside ERROR STATUS is STATE alone. -/
theorem regStatus_of_not_error {s : State} (hinv : s.Inv) (hm : s.mode ≠ .error) :
    regStatus s = 0#30 ++ modeBits s.mode := by
  rw [regStatus, hinv.errcode_zero.mpr hm]
  cases s.mode <;> rfl

/-- Settles O36: STATE's bits with ERRCODE 0 outside ERROR, and above them a code from 1 to 7 in ERROR. -/
theorem statusValuesOfEachMode : Obligations.StatusValuesOfEachMode := by
  intro s hinv
  have status {m : Mode} (h : s.mode = m) (hm : m ≠ .error) : regValue 0 s = 0#30 ++ modeBits m := by
    subst h
    exact regStatus_of_not_error hinv hm
  refine ⟨fun h => status h (by decide), fun h => status h (by decide), fun h => status h (by decide), fun h => ?_⟩
  have nonzero : s.errcode ≠ 0 := fun h0 => hinv.errcode_zero.mp h0 h
  have positive : 1 ≤ s.errcode.toNat := by bv_omega
  refine ⟨s.errcode.toNat, positive, hinv.errcode_le, rfl, ?_⟩
  calc (regStatus s).toNat = 0x03 + s.errcode.toNat * 2 ^ 4 := by rw [toNat_regStatus, h]; rfl
    _ = s.errcode.toNat <<< 4 + 0x03 := by rw [Nat.shiftLeft_eq, Nat.add_comm]
    _ = 0x03 ||| (s.errcode.toNat <<< 4) := by rw [Nat.shiftLeft_add_eq_or_of_lt (by decide), Nat.or_comm]

end Sys2Proof.Machine

/-! What one step can do, said once (`Transition`, tied to the model by `step_transition`), and what follows from it for
STATE, ERRCODE, BUF and the parameters (10_state.md R22, R23, R32; 60_exceptions.md R185, R187). -/

namespace Sys2Proof.Machine

/-! ### PIXEL, from any state in RUN -/

/-- A pixel's bit and error are those of `bitOfPixel` and `pixelError`, also where the ditherer's column is not
checked. -/
theorem bit_and_error_of_pixelBit {p : Rgb Nat} {s t : State} {bit : Bool} (h : pixelBit p s = .ok (bit, t)) :
    bit = bitOfPixel p s ∧ t = diffuse (pixelError p s) s := by
  rcases pixelBit_cases h with ⟨hb, rfl, rfl⟩ | ⟨hb, _, v, rfl, rfl, rfl⟩
  · simp [bitOfPixel, pixelError, hb, diffuse_zero]
  · simp [bitOfPixel, pixelError, hb]

/-- A PIXEL that completes answers `pixelNext`, from a state with the invariant or without it. -/
theorem takePixel_eq_pixelNext {p : Rgb Nat} {s t : State} (h : takePixel p s = .next t) : t = pixelNext p s := by
  obtain ⟨bit, dithered, packed, hbit, hpack, rfl⟩ := takePixel_cases h
  obtain ⟨rfl, rfl⟩ := bit_and_error_of_pixelBit hbit
  obtain ⟨_, rfl⟩ := pack_cases hpack
  rfl

/-- A PIXEL keeps STATE or ends the frame. -/
theorem pixelNext_mode_cases (p : Rgb Nat) (s : State) :
    (pixelNext p s).mode = s.mode ∨ (pixelNext p s).mode = .done := by
  unfold pixelNext
  rcases advance_cases (storePixel p s) with ⟨_, h⟩ | ⟨_, h⟩ <;> rw [h]
  · exact .inl rfl
  · rw [endFrame_mode]
    split
    · exact .inr rfl
    · exact .inl rfl

/-! ### The transitions of the machine -/

/-- The state `t` is what the host's next operation makes of `s`, the operations `rest` staying in the queue. Each
constructor carries the condition under which the model takes it (10_state.md R22). -/
inductive Transition (s : State) (rest : List HostOp) : State → Prop
  /-- A NOP, a CLEAR outside ERROR, or a word that ERROR ignores. -/
  | ignored : Transition s rest { s with inbox := rest }
  /-- A read request's response. -/
  | responded (v : RegValue) : Transition s rest (respond v { s with inbox := rest })
  /-- An error, of a command or of an illegal word. -/
  | failed (c : ErrCode) (hm : s.mode ≠ .error) : Transition s rest (raiseError c { s with inbox := rest })
  /-- The reset input. -/
  | reset (p : Option Request) (hreset : nextIsReset s = true) :
      Transition s rest (hostReset p { s with inbox := rest })
  /-- An accepted CONFIG or PROFILE. -/
  | configured (w h : Nat) (trav : Traversal) (bypass : Bool) (hm : s.mode = .idle ∨ s.mode = .done)
      (hdims : badDims s.params w h = false)
      (hi : (∃ w h trav bypass, nextInstr s = some (.config w h trav bypass)) ∨
        ∃ sel, nextInstr s = some (.profile sel)) :
      Transition s rest (applyConfig w h trav bypass { s with inbox := rest })
  /-- An accepted START. -/
  | begun (hm : s.mode = .idle ∨ s.mode = .done) (hw : s.cfgW ≠ 0) (hh : s.cfgH ≠ 0)
      (hi : nextInstr s = some .start) : Transition s rest (beginFrame { s with inbox := rest })
  /-- An accepted PIXEL. -/
  | took (r g b : Nat) (hm : s.mode = .run) (hi : nextInstr s = some (.pixel r g b)) :
      Transition s rest (pixelNext ⟨r, g, b⟩ { s with inbox := rest })
  /-- CLEAR in ERROR. -/
  | cleared (hm : s.mode = .error) (hi : nextInstr s = some .clear) :
      Transition s rest (clearError { s with inbox := rest })

theorem nextInstr_of_legal {s : State} {q : Request} {rest : List HostOp} {i : Instr}
    (hin : s.inbox = .request q :: rest) (hq : decode q = .legal i) : nextInstr s = some i := by
  simp [nextInstr, hin, hq]

theorem nextIsReset_of_inbox {s : State} {p : Option Request} {rest : List HostOp}
    (hin : s.inbox = .reset p :: rest) : nextIsReset s = true := by
  simp [nextIsReset, hin]

/-- The profiles' dimensions are bad exactly when they exceed the parameters. -/
theorem badDims_of_profile {sel w h : Nat} {p : Config.Params} (hp : profileDims sel = some (w, h))
    (hfit : profileTooLarge p w h = false) : badDims p w h = false := by
  rw [← Bool.not_eq_true, profileTooLarge_iff] at hfit
  rw [← Bool.not_eq_true, badDims_iff]
  rcases profileDims_cases hp with ⟨_, rfl, rfl⟩ | ⟨_, rfl, rfl⟩ <;> omega

section
variable {s t : State} {rest : List HostOp}

/-- The answers of an instruction, as transitions. -/
theorem exec_transition {i : Instr} (hi : nextInstr s = some i) (h : exec i { s with inbox := rest } = .next t) :
    Transition s rest t := by
  have busy (hm : s.mode = .run) : s.mode ≠ .error := by simp [hm]
  cases i with
  | nop => exact execNop_cases h ▸ .ignored
  | config w h' trav bypass =>
    rcases execConfig_cases h with ⟨_, rfl⟩ | ⟨hm, rfl⟩ | ⟨hm, ⟨_, rfl⟩ | ⟨hdims, rfl⟩⟩
    · exact .ignored
    · exact .failed _ (busy hm)
    · exact .failed _ (not_error_not_run hm).1
    · exact .configured _ _ _ _ hm hdims (.inl ⟨_, _, _, _, hi⟩)
  | profile sel =>
    rcases execProfile_cases h with ⟨_, rfl⟩ | ⟨hm, rfl⟩ | ⟨hm, ⟨_, rfl⟩ | ⟨_, _, hp, ⟨_, rfl⟩ | ⟨hfit, rfl⟩⟩⟩
    · exact .ignored
    · exact .failed _ (busy hm)
    · exact .failed _ (not_error_not_run hm).1
    · exact .failed _ (not_error_not_run hm).1
    · exact .configured _ _ _ _ hm (badDims_of_profile hp hfit) (.inr ⟨_, hi⟩)
  | start =>
    rcases execStart_cases h with ⟨_, rfl⟩ | ⟨hm, rfl⟩ | ⟨hm, ⟨_, rfl⟩ | ⟨hcfg, rfl⟩⟩
    · exact .ignored
    · exact .failed _ (busy hm)
    · exact .failed _ (not_error_not_run hm).1
    · rw [← Bool.not_eq_true, unconfigured_iff, not_or] at hcfg
      exact .begun hm hcfg.1 hcfg.2 hi
  | pixel r g b =>
    rcases execPixel_cases h with ⟨_, rfl⟩ | ⟨hm, rfl⟩ | ⟨hm, h⟩
    · exact .ignored
    · exact .failed _ (not_error_not_run hm).1
    · exact takePixel_eq_pixelNext h ▸ .took r g b hm hi
  | clear =>
    rcases execClear_cases h with ⟨hm, rfl⟩ | ⟨_, rfl⟩
    · exact .cleared hm hi
    · exact .ignored
  | readReg n => cases h; exact .responded _
  | readBuf a => cases h; exact .responded _

/-- Every step waits or is one of the transitions. -/
theorem step_transition (h : step s = .next t) :
    (s.inbox = [] ∧ t = s) ∨ ∃ op rest, s.inbox = op :: rest ∧ Transition s rest t := by
  rcases step_cases s with ⟨hin, hs⟩ | ⟨p, rest, hin, hs⟩ | ⟨q, rest, i, hin, hq, hs⟩ | ⟨q, rest, c, hin, _, hs⟩ <;>
    rw [hs] at h
  · cases h
    exact .inl ⟨hin, rfl⟩
  · cases h
    exact .inr ⟨_, rest, hin, .reset p (nextIsReset_of_inbox hin)⟩
  · exact .inr ⟨_, rest, hin, exec_transition (nextInstr_of_legal hin hq) h⟩
  · refine .inr ⟨_, rest, hin, ?_⟩
    rcases illegalWord_cases h with ⟨_, rfl⟩ | ⟨hm, rfl⟩
    · exact .ignored
    · exact .failed c hm

end

/-! ### What follows for STATE, ERRCODE, BUF and the parameters -/

/-- Settles O42: no transition writes the parameters. -/
theorem stepKeepsParameters : Obligations.StepKeepsParameters := by
  intro s t h
  rcases step_transition h with ⟨_, rfl⟩ | ⟨op, rest, _, htr⟩
  · rfl
  · cases htr with
    | took => exact pixelNext_params _ _
    | _ => rfl

/-- Settles O43: each transition that changes STATE is an event of the table. -/
theorem modeChangesOnlyByTable : Obligations.ModeChangesOnlyByTable := by
  intro s t h hne
  rcases step_transition h with ⟨_, rfl⟩ | ⟨op, rest, _, htr⟩
  · exact absurd rfl hne
  · cases htr with
    | ignored => exact absurd rfl hne
    | responded => exact absurd rfl hne
    | failed c hm => exact .inr (.inr (.inr (.inr (.inl ⟨hm, rfl, errBits_ne_zero c⟩))))
    | reset p hreset => exact .inl ⟨hreset, rfl⟩
    | configured _ _ _ _ hm _ hi =>
      rcases hm with hm | hm
      · exact absurd hm.symm hne
      · exact .inr (.inl ⟨hm, rfl, hi⟩)
    | begun hm _ _ hi => exact .inr (.inr (.inl ⟨hm, rfl, hi⟩))
    | took r g b hm hi =>
      have hdone := (pixelNext_mode_cases ⟨r, g, b⟩ { s with inbox := rest }).resolve_left hne
      exact .inr (.inr (.inr (.inl ⟨hm, hdone, r, g, b, hi⟩)))
    | cleared hm hi => exact .inr (.inr (.inr (.inr (.inr ⟨hm, rfl, hi⟩))))

/-- A PIXEL in RUN never leads to ERROR. -/
theorem pixelNext_not_error {s : State} (hrun : s.mode = .run) (p : Rgb Nat) : (pixelNext p s).mode ≠ .error := by
  rcases pixelNext_mode_cases p s with h | h <;> simp [h, hrun]

/-- Only `raiseError` enters ERROR. -/
theorem Transition.enters_error {s t : State} {rest : List HostOp} (h : Transition s rest t) (hs : s.mode ≠ .error)
    (ht : t.mode = .error) : ∃ c, t = raiseError c { s with inbox := rest } := by
  cases h with
  | failed c => exact ⟨c, rfl⟩
  | ignored => exact absurd ht hs
  | responded => exact absurd ht hs
  | took r g b hm => exact absurd ht (pixelNext_not_error (s := { s with inbox := rest }) hm _)
  | reset => cases ht
  | configured => cases ht
  | begun => cases ht
  | cleared => cases ht

/-- Settles O45: a step into ERROR is `raiseError`, whose code is one of the table's. -/
theorem errorsArePrecise : Obligations.ErrorsArePrecise := by
  intro s t h hs ht
  rcases step_transition h with ⟨_, rfl⟩ | ⟨op, rest, hin, htr⟩
  · exact absurd ht hs
  · obtain ⟨c, rfl⟩ := htr.enters_error hs ht
    have nonzero := errBits_ne_zero c
    have positive : 1 ≤ (errBits c).toNat := by bv_omega
    exact ⟨op, rest, hin, rfl, positive, errBits_le c⟩

/-- In ERROR an operation is ignored, a read, the reset input or CLEAR. -/
theorem Transition.from_error {s t : State} {rest : List HostOp} (h : Transition s rest t) (hs : s.mode = .error) :
    (t.mode = .error ∧ t.errcode = s.errcode) ∨
      (t.mode = .idle ∧ (nextIsReset s = true ∨ nextInstr s = some .clear)) := by
  cases h with
  | ignored => exact .inl ⟨hs, rfl⟩
  | responded => exact .inl ⟨hs, rfl⟩
  | reset _ hreset => exact .inr ⟨rfl, .inl hreset⟩
  | cleared _ hi => exact .inr ⟨rfl, .inr hi⟩
  | failed _ hm => exact absurd hs hm
  | configured _ _ _ _ hm => exact absurd hs (not_error_not_run hm).1
  | begun hm => exact absurd hs (not_error_not_run hm).1
  | took _ _ _ hm => cases hm.symm.trans hs

/-- Settles O47: the transitions that write BUF are reset, START and PIXEL. -/
theorem bufChangesOnlyByPixelStartReset : Obligations.BufChangesOnlyByPixelStartReset := by
  intro s t h hne
  rcases step_transition h with ⟨_, rfl⟩ | ⟨op, rest, _, htr⟩
  · exact absurd rfl hne
  · cases htr with
    | reset _ hreset => exact .inl hreset
    | begun hm _ _ hi => exact .inr (.inl ⟨hi, hm, rfl, fun a => memRead_beginFrame a _⟩)
    | took r g b hm hi => exact .inr (.inr ⟨hm, r, g, b, hi⟩)
    | _ => exact absurd rfl hne

end Sys2Proof.Machine

/-! The invariants at reset and kept by every transition (10_state.md R23 to R32, 20_memory.md R52, 41_dither.md R137),
that no step stops, and the reset input (70_reset_and_hazards.md R210). -/

namespace Sys2Proof.Machine

/-! ### The host's side is no part of an invariant -/

section
variable {s : State} (ops : List HostOp) (answers : List RegValue)

theorem State.Inv.ports (h : s.Inv) : ({ s with inbox := ops, responses := answers } : State).Inv :=
  ⟨h.params_legal, h.config_legal, h.run_position, h.done_position, h.frame_pixcount, h.errcode_zero, h.errcode_le,
    h.cur_length, h.nxt_length, h.buf_wf, h.buf_inside, h.frame_cleared, h.draw_last⟩

theorem State.LineBounded.ports (h : s.LineBounded) :
    ({ s with inbox := ops, responses := answers } : State).LineBounded :=
  ⟨h.run_cur, h.run_nxt, h.all_cur, h.all_nxt, h.last_row, h.done_zero⟩

theorem State.OnlySuppliedBits.ports (h : s.OnlySuppliedBits) :
    ({ s with inbox := ops, responses := answers } : State).OnlySuppliedBits := h

end

/-! ### Outside a frame the line buffer and BUF are under no frame's bound -/

/-- Outside RUN and DONE only the whole kernel's bound is asked of the line buffer. -/
theorem State.LineBounded.outside_frame {s t : State} (h : s.LineBounded) (hrun : t.mode ≠ .run)
    (hdone : t.mode ≠ .done) (hcur : t.errCur = s.errCur) (hnxt : t.errNxt = s.errNxt) : t.LineBounded where
  run_cur hm := absurd hm hrun
  run_nxt hm := absurd hm hrun
  all_cur := hcur ▸ h.all_cur
  all_nxt := hnxt ▸ h.all_nxt
  last_row hm := absurd hm hrun
  done_zero hm := absurd hm hdone

theorem onlySuppliedBits_outside_frame {s : State} (hrun : s.mode ≠ .run) (hdone : s.mode ≠ .done) :
    s.OnlySuppliedBits := fun h => absurd h (not_or.mpr ⟨hrun, hdone⟩)

/-! ### Reset -/

theorem afterReset_inv {p : Config.Params} (hp : p.legal) (n : Nat) : (State.afterReset p n).Inv where
  params_legal := hp
  config_legal := .inl ⟨rfl, rfl⟩
  run_position h := nomatch h
  done_position h := nomatch h
  frame_pixcount h := by simp [State.afterReset] at h
  errcode_zero := iff_of_true rfl (fun h => nomatch h)
  errcode_le := Nat.zero_le 7
  cur_length := List.length_replicate
  nxt_length := List.length_replicate
  buf_wf := afterReset_buf_wf p n
  buf_inside _ h := nomatch h
  frame_cleared h := by simp [State.afterReset] at h
  draw_last := .inr rfl

/-- Outside a frame a line buffer of zeros, as START would leave it, is within the bounds. -/
theorem lineBounded_of_zeroRow {s : State} (hrun : s.mode ≠ .run) (hdone : s.mode ≠ .done)
    (hcur : s.errCur = zeroRow s) (hnxt : s.errNxt = zeroRow s) : s.LineBounded :=
  (beginFrame_lineBounded s).outside_frame hrun hdone hcur hnxt

theorem hostReset_inv {s : State} (hinv : s.Inv) (p : Option Request) : (hostReset p s).Inv :=
  (afterReset_inv hinv.params_legal (s.resets + 1)).ports s.inbox s.responses

/-- Settles O37: the reset state is `State.afterReset` at legal parameters, outside any frame. -/
theorem resetMeetsInvariants : Obligations.ResetMeetsInvariants :=
  have idle : State.reset.mode = .idle := rfl
  ⟨afterReset_inv (by decide) 0, lineBounded_of_zeroRow (by simp [idle]) (by simp [idle]) rfl rfl,
    onlySuppliedBits_outside_frame (by simp [idle]) (by simp [idle])⟩

/-- Settles O11: the listed values and the registers evaluated. -/
theorem resetStateHoldsListedValues : Obligations.ResetStateHoldsListedValues := by
  unfold Obligations.ResetStateHoldsListedValues
  decide

theorem step_of_reset {s : State} {p : Option Request} {rest : List HostOp} (hin : s.inbox = .reset p :: rest) :
    step s = .next (hostReset p { s with inbox := rest }) := by
  simp [step, nextOp, hin]

theorem memRead_hostReset (a : Nat) (p : Option Request) (s : State) :
    memRead a (hostReset p s) = Config.freeByte (s.resets + 1) a := rfl

/-- Settles O12: `hostReset`, field by field; a second one differs in the number of its draw alone. -/
theorem resetInputReinitialises : Obligations.ResetInputReinitialises := by
  intro s presented rest hin
  refine ⟨_, step_of_reset hin, rfl, rfl, rfl, rfl, rfl, rfl, rfl, rfl, rfl, rfl,
    fun a => memRead_hostReset a presented _, rfl, rfl, rfl, fun p rest' hrest => ?_⟩
  subst hrest
  exact step_of_reset rfl

/-! ### The invariant -/

/-- CLEAR in ERROR keeps the invariant. -/
theorem clearError_inv {s : State} (hinv : s.Inv) : (clearError s).Inv where
  params_legal := hinv.params_legal
  config_legal := hinv.config_legal
  run_position h := nomatch h
  done_position h := nomatch h
  frame_pixcount h := by simp at h
  errcode_zero := iff_of_true rfl (fun h => nomatch h)
  errcode_le := Nat.zero_le 7
  cur_length := hinv.cur_length
  nxt_length := hinv.nxt_length
  buf_wf := hinv.buf_wf
  buf_inside := hinv.buf_inside
  frame_cleared h := by simp at h
  draw_last := hinv.draw_last

/-- Dimensions within legal parameters fit their 9-bit fields. -/
theorem dims_of_not_badDims {p : Config.Params} {w h : Nat} (hp : p.legal) (hdims : badDims p w h = false) :
    (1 ≤ w ∧ w ≤ p.wMax ∧ 1 ≤ h ∧ h ≤ p.hMax) ∧ w < 2 ^ 9 ∧ h < 2 ^ 9 := by
  obtain ⟨_, hwMax, _, hhMax⟩ := hp
  rw [← Bool.not_eq_true, badDims_iff] at hdims
  omega

/-- An accepted configuration keeps the invariant of a state outside ERROR. -/
theorem applyConfig_inv {s : State} {w h : Nat} (hinv : s.Inv) (hm : s.mode ≠ .error)
    (hdims : badDims s.params w h = false) (trav : Traversal) (bypass : Bool) :
    (applyConfig w h trav bypass s).Inv where
  params_legal := hinv.params_legal
  config_legal := by
    obtain ⟨range, hw, hh⟩ := dims_of_not_badDims hinv.params_legal hdims
    rw [applyConfig_cfgW, applyConfig_cfgH, ofNat_toNat_of_lt hw, ofNat_toNat_of_lt hh]
    exact .inr range
  run_position h := nomatch h
  done_position h := nomatch h
  frame_pixcount h := by simp at h
  errcode_zero := iff_of_true (hinv.errcode_zero.mpr hm) (fun h => nomatch h)
  errcode_le := hinv.errcode_le
  cur_length := hinv.cur_length
  nxt_length := hinv.nxt_length
  buf_wf := hinv.buf_wf
  buf_inside := hinv.buf_inside
  frame_cleared h := by simp at h
  draw_last := hinv.draw_last

/-- What every transition keeps, every step keeps: waiting changes nothing. -/
theorem step_keeps {P : State → Prop} (hkeeps : ∀ {s t rest}, P s → Transition s rest t → P t) {s t : State}
    (hs : P s) (h : step s = .next t) : P t := by
  rcases step_transition h with ⟨_, rfl⟩ | ⟨_, _, _, htr⟩
  · exact hs
  · exact hkeeps hs htr

section
variable {s t : State} {rest : List HostOp}

theorem Transition.keeps_inv (hinv : s.Inv) (h : Transition s rest t) : t.Inv := by
  have hinv' : ({ s with inbox := rest } : State).Inv := hinv.ports rest s.responses
  cases h with
  | ignored => exact hinv'
  | responded v => exact respond_inv hinv' v
  | failed c => exact raiseError_inv hinv' c
  | reset p => exact hostReset_inv hinv' p
  | configured w h trav bypass hm hdims => exact applyConfig_inv hinv' (not_error_not_run hm).1 hdims trav bypass
  | begun hm hw hh => exact beginFrame_inv hinv' (not_error_not_run hm).1 hw hh
  | took r g b hm => exact pixelNext_inv hinv' hm _
  | cleared => exact clearError_inv hinv'

theorem Transition.keeps_lineBounded (hinv : s.Inv) (hline : s.LineBounded) (h : Transition s rest t) :
    t.LineBounded := by
  have hline' : ({ s with inbox := rest } : State).LineBounded := hline.ports rest s.responses
  cases h with
  | ignored => exact hline'
  | responded v => exact hline'.ports _ _
  | failed c => exact hline'.outside_frame (by simp) (by simp) rfl rfl
  | reset p => exact lineBounded_of_zeroRow (by simp) (by simp) rfl rfl
  | configured => exact hline'.outside_frame (by simp) (by simp) rfl rfl
  | begun => exact beginFrame_lineBounded _
  | took r g b hm => exact pixelNext_lineBounded (hinv.ports rest s.responses) hline' hm _
  | cleared => exact hline'.outside_frame (by simp) (by simp) rfl rfl

end

/-! ### Only supplied bits -/

theorem beginFrame_onlySuppliedBits (s : State) : (beginFrame s).OnlySuppliedBits := by
  intro _ k hk
  rw [bitOf_beginFrame] at hk
  cases hk

/-- PIXEL in RUN makes 1 at most the bit of the pixel it counts. -/
theorem pixelNext_onlySuppliedBits {s : State} (hinv : s.Inv) (hbits : s.OnlySuppliedBits) (hrun : s.mode = .run)
    (p : Rgb Nat) : (pixelNext p s).OnlySuppliedBits := by
  intro _ k hk
  rw [pixelNext_pixcount hinv hrun, pixelNext_cfgW, pixelNext_cfgH, pixelNext_trav]
  rw [bitOf_pixelNext, Bool.or_eq_true, Bool.and_eq_true, decide_eq_true_eq] at hk
  rcases hk with hold | ⟨_, hnew⟩
  · obtain ⟨n, hn, hindex⟩ := hbits (.inl hrun) k hold
    exact ⟨n, Nat.lt_succ_of_lt hn, hindex⟩
  · exact ⟨s.pixcount.toNat, Nat.lt_succ_self _, hnew.trans (curIndex_eq_rasterIndex hinv hrun)⟩

theorem Transition.keeps_onlySuppliedBits {s t : State} {rest : List HostOp} (hinv : s.Inv)
    (hbits : s.OnlySuppliedBits) (h : Transition s rest t) : t.OnlySuppliedBits := by
  have hbits' : ({ s with inbox := rest } : State).OnlySuppliedBits := hbits.ports rest s.responses
  cases h with
  | ignored => exact hbits'
  | responded v => exact hbits'.ports _ _
  | failed c => exact onlySuppliedBits_outside_frame (by simp) (by simp)
  | reset p => exact onlySuppliedBits_outside_frame (by simp) (by simp)
  | configured => exact onlySuppliedBits_outside_frame (by simp) (by simp)
  | begun => exact beginFrame_onlySuppliedBits _
  | took r g b hm => exact pixelNext_onlySuppliedBits (hinv.ports rest s.responses) hbits' hm _
  | cleared => exact onlySuppliedBits_outside_frame (by simp) (by simp)

/-! ### Every step keeps them, and answers -/

/-- Settles O38: each transition keeps the invariant. -/
theorem stepKeepsInvariant : Obligations.StepKeepsInvariant :=
  fun _ _ => step_keeps Transition.keeps_inv

/-- Settles O40: with the invariant beside them the bounds are kept by each transition. -/
theorem stepKeepsLineBufferBounded : Obligations.StepKeepsLineBufferBounded :=
  fun _ _ hinv hline h =>
    (step_keeps (P := fun s => s.Inv ∧ s.LineBounded)
      (fun hs htr => ⟨htr.keeps_inv hs.1, htr.keeps_lineBounded hs.1 hs.2⟩) ⟨hinv, hline⟩ h).2

/-- Settles O41: with the invariant beside it each transition keeps it. -/
theorem stepKeepsOnlySuppliedBits : Obligations.StepKeepsOnlySuppliedBits :=
  fun _ _ hinv hbits h =>
    (step_keeps (P := fun s => s.Inv ∧ s.OnlySuppliedBits)
      (fun hs htr => ⟨htr.keeps_inv hs.1, htr.keeps_onlySuppliedBits hs.1 hs.2⟩) ⟨hinv, hbits⟩ h).2

/-- Settles O46: outside ERROR the invariant of the next state, in ERROR the transitions from there. -/
theorem firstErrorIsKept : Obligations.FirstErrorIsKept := by
  intro s t hinv h
  have hinv' : t.Inv := stepKeepsInvariant s t hinv h
  refine ⟨hinv'.errcode_zero.mpr, ?_⟩
  rcases step_transition h with ⟨_, rfl⟩ | ⟨_, _, _, htr⟩
  · exact ⟨fun _ _ => rfl, fun hs hs' => absurd hs hs'⟩
  · refine ⟨fun hs ht => ?_, fun hs ht => ?_⟩
    · rcases htr.from_error hs with ⟨_, hcode⟩ | ⟨hidle, _⟩
      · exact hcode
      · cases hidle.symm.trans ht
    · exact (htr.from_error hs).resolve_left fun kept => ht kept.1

theorem unlessError_next (s t : State) : ∃ u, unlessError s (.next t) = .next u := by
  unfold unlessError
  split <;> exact ⟨_, rfl⟩

/-- PIXEL completes: in RUN by the invariant, elsewhere by its error. -/
theorem execPixel_next {s : State} (hinv : s.Inv) (r g b : Nat) : ∃ t, execPixel r g b s = .next t := by
  by_cases hrun : s.mode = .run
  · exact ⟨_, execPixel_run hinv hrun r g b⟩
  · rw [execPixel, if_neg hrun]
    exact unlessError_next ..

theorem exec_next {s : State} (hinv : s.Inv) (i : Instr) : ∃ t, exec i s = .next t := by
  cases i with
  | pixel r g b => exact execPixel_next hinv r g b
  | nop => exact unlessError_next ..
  | config w h trav bypass => exact unlessError_next ..
  | profile sel => exact unlessError_next ..
  | start => exact unlessError_next ..
  | clear => exact ⟨_, rfl⟩
  | readReg n => exact ⟨_, rfl⟩
  | readBuf a => exact ⟨_, rfl⟩

/-- Settles O39: waiting, reset and an illegal word answer in every state, an instruction by the invariant. -/
theorem noStepStops : Obligations.NoStepStops := by
  intro s hinv
  rcases step_cases s with ⟨_, hs⟩ | ⟨_, _, _, hs⟩ | ⟨_, rest, i, _, _, hs⟩ | ⟨_, _, _, _, _, hs⟩ <;> rw [hs]
  · exact ⟨_, rfl⟩
  · exact ⟨_, rfl⟩
  · exact exec_next (hinv.ports rest s.responses) i
  · exact unlessError_next ..

end Sys2Proof.Machine
